-- ==== Sys2Proof/Word.lean ====
section
/-!
DEFINITION. The two bit-vector types of the block: a 32-bit register value (spec/00_scope.md R3, "Every register of
the block: 32 bits") and an 8-bit buffer byte ("Host access to a buffer: 8 bits").
-/
namespace Sys2Proof

/-- A register, length, count, tag or CRC value (R3). Always read as unsigned (R4). -/
abbrev Word := BitVec 32

/-- One byte of a buffer (R3, R37). -/
abbrev Byte := BitVec 8

/-- `zext_32(b)`: a byte widened to 32 bits with zeros above it (R4). -/
abbrev zext32 (b : Byte) : Word := b.setWidth 32

end Sys2Proof
end

