-- ==== Sys2Proof/Config.lean ====
section
/-!
DEFINITION. What an implementation of the block fixes (its OPEN parameters) and the free values. Nothing here has a
value that Lean can see: a statement that mentions one of these holds for every value of it.
-/
namespace Sys2Proof

/-- `P_LENGTH_CHECK` (spec/00_scope.md R2): whether CHUNK_DECODE compares the declared length with the payload count. -/
inductive LengthCheck where
  | tolerate   -- encoded 0: the source's behaviour
  | strict     -- encoded 1: a mismatch fails with LENGTH_MISMATCH
  deriving DecidableEq, Repr, Inhabited

/-- The four address spaces of the host port (spec/20_memory.md R35). -/
inductive Space where
  | reg
  | ibuf
  | pbuf
  | obuf
  deriving DecidableEq, Repr

/-- The lower bound of `P_BUF_BYTES` (R1): IBUF holds the 12-byte minimum frame. -/
abbrev Config.minBufBytes : Nat := 12

/-- The upper bound of `P_BUF_BYTES` (R1): `12 + payload count` stays inside a 32-bit register. -/
abbrev Config.maxBufBytes : Nat := 2 ^ 32 - 13

/-- The implementation's choice from which `P_BUF_BYTES` is made (log entry 7). -/
opaque Config.bufBytesChoice : Nat

/-- `P_BUF_BYTES` (R1, R28): OPEN between its two bounds. Every number in that range is this value for some choice,
and no number outside it is. -/
def Config.bufBytes : Word :=
  BitVec.ofNat 32 (max Config.minBufBytes (min Config.bufBytesChoice Config.maxBufBytes))

/-- `P_LENGTH_CHECK` (R2): OPEN. -/
opaque Config.lengthCheck : LengthCheck

/-- `P_BASE_REG`, `P_BASE_IBUF`, `P_BASE_PBUF`, `P_BASE_OBUF` (spec/20_memory.md R45): where the platform places each
space. OPEN; no rule of the block depends on them. -/
opaque Config.base : Space → Nat

/-- The draw of a buffer byte (R39, R40): one free byte for each value of the counter `State.draws` (log entry 5). -/
opaque Config.freeByte : Nat → Byte

/-- A free value of the port's 32-bit `rdata` line (log entries 4 and 8). -/
opaque Config.freeWord : Nat → Word

/-- A free value of the port's `error` line after a host fault (spec/93_implementation_defined.md U6; log entry 4). -/
opaque Config.freeBit : Nat → Bool

end Sys2Proof
end

