-- ==== Sys2Proof/Syntax.lean ====
section
/-!
DEFINITION. The commands of the block: one constructor per row of spec/opcode_table.json, in its order
(spec/30_encoding.md R51). A command word carries no operand (R54), so no constructor has an argument.
-/
namespace Sys2Proof

/-- The eight commands. Each names its opcode and its rule. -/
inductive Instr where
  | tagLoad        -- TAG_LOAD       0x01  spec/40_tag_decoder.md R67
  | tagLoadStr     -- TAG_LOAD_STR   0x02  R68
  | tagFromChunk   -- TAG_FROM_CHUNK 0x03  R69
  | crcInit        -- CRC_INIT       0x10  spec/41_crc_generator.md R74
  | crcUpdate      -- CRC_UPDATE     0x11  R75
  | chunkBuild     -- CHUNK_BUILD    0x20  spec/42_chunk_frame.md R81
  | chunkDecode    -- CHUNK_DECODE   0x21  R82
  | chunkEncode    -- CHUNK_ENCODE   0x22  R84
  deriving DecidableEq, Repr

end Sys2Proof
end

