-- ==== Sys2Proof/WellFormed.lean ====
section
/-!
DEFINITION. The checks on what comes from outside: an instruction, a command word (spec/30_encoding.md R50, R52) and an
implementation's buffer size (spec/00_scope.md R1).
-/
namespace Sys2Proof

/-- A command has no operand, immediate or mode field (R50), so every instruction is well-formed. -/
def Instr.wellFormed : Instr → Bool
  | .tagLoad => true
  | .tagLoadStr => true
  | .tagFromChunk => true
  | .crcInit => true
  | .crcUpdate => true
  | .chunkBuild => true
  | .chunkDecode => true
  | .chunkEncode => true

/-- RSVD, bits 31:8 of a command word, must be 0 (R50). -/
def WellFormed.reservedClear (w : Word) : Bool := w.extractLsb' 8 24 == 0#24

/-- OP, bits 7:0 of a command word, must be one of the eight values of R51. -/
def WellFormed.opAssigned (w : Word) : Bool :=
  [0x01#8, 0x02#8, 0x03#8, 0x10#8, 0x11#8, 0x20#8, 0x21#8, 0x22#8].contains (w.extractLsb' 0 8)

/-- A command word that is not illegal (R52). -/
def WellFormed.commandWord (w : Word) : Bool := WellFormed.reservedClear w && WellFormed.opAssigned w

/-- `12 <= P_BUF_BYTES <= 2^32 - 13` (R1). -/
def WellFormed.bufBytes (c : Word) : Bool :=
  decide (Config.minBufBytes ≤ c.toNat) && decide (c.toNat ≤ Config.maxBufBytes)

end Sys2Proof
end

