-- ==== Sys2Proof/Decode.lean ====
section
/-!
DEFINITION. The command decoder, total on every 32-bit word and rejecting by name (spec/30_encoding.md R50 to R53), and
after it the encoder, written from the same table (R51).
-/
namespace Sys2Proof

/-- Why a command word is illegal (R52). Both reasons end in ILLEGAL_CMD (code 8). -/
inductive DecodeError where
  | reservedBitsSet   -- RSVD, bits 31:8, is not 0
  | reservedOpcode    -- OP is none of the eight values of R51
  deriving DecidableEq, Repr

/-- OP: bits 7:0 of a command word (R50). -/
def opField (w : Word) : BitVec 8 := w.extractLsb' 0 8

/-- RSVD: bits 31:8 of a command word (R50). -/
def reservedField (w : Word) : BitVec 24 := w.extractLsb' 8 24

/-- The opcode map of R51, row by row. -/
def opcodeMap : List (BitVec 8 × Instr) :=
  [ (0x01#8, .tagLoad), (0x02#8, .tagLoadStr), (0x03#8, .tagFromChunk),
    (0x10#8, .crcInit), (0x11#8, .crcUpdate),
    (0x20#8, .chunkBuild), (0x21#8, .chunkDecode), (0x22#8, .chunkEncode) ]

/-- The command of an OP value, none for a reserved one (R51, R52). -/
def decodeOp (op : BitVec 8) : Option Instr := opcodeMap.lookup op

/-- The command a 32-bit word stands for (R50 to R53). -/
def decode (w : Word) : Except DecodeError Instr :=
  if reservedField w = 0#24 then
    match decodeOp (opField w) with
    | some i => .ok i
    | none => .error .reservedOpcode
  else .error .reservedBitsSet

/-- What the decoder reads from a word given as the opcode table numbers its bits: bit 0 is the least significant, and
every bit at or above `nbits` is 0. A command is one 32-bit word (R53), so a longer one is refused. -/
def decodeTableWord (nbits w : Nat) : Option Instr :=
  if w % 2 ^ nbits < 2 ^ 32 then (decode (BitVec.ofNat 32 (w % 2 ^ nbits))).toOption else none

/-- The OP value of a command (R51). -/
def opcodeOf : Instr → BitVec 8
  | .tagLoad => 0x01#8
  | .tagLoadStr => 0x02#8
  | .tagFromChunk => 0x03#8
  | .crcInit => 0x10#8
  | .crcUpdate => 0x11#8
  | .chunkBuild => 0x20#8
  | .chunkDecode => 0x21#8
  | .chunkEncode => 0x22#8

/-- The command word of an instruction: RSVD = 0 above OP (R50), the same word the host form `CMD <mnemonic>` writes
(R57). -/
def encode (i : Instr) : Word := 0#24 ++ opcodeOf i

end Sys2Proof
end

