-- ==== Sys2Proof/Machine/State.lean ====
section
/-!
DEFINITION. The state of the block as plain data (spec/10_state.md, spec/20_memory.md), the turns and port answers the
model keeps beside it, the reasons a step can stop, and the state after reset (spec/70_reset_and_hazards.md R102).
-/
namespace Sys2Proof.Machine

/-- A buffer: the bytes that have been written, by offset, offsets strictly rising. An offset that is not listed has
never been written and reads as a draw (R33, R39, R40; log entry 6). -/
abbrev Memory := List Host.Cell

/-- `size` of a host access: 1 or 4 bytes (R34). -/
inductive Size where
  | byte   -- 1 byte
  | word   -- 4 bytes
  deriving DecidableEq, Repr

/-- A request on the host target port (R34): `MemRead` when `write` is false, `MemWrite` when it is true (R35). -/
structure Access where
  space : Space
  off   : Word
  write : Bool
  size  : Size
  wdata : Word
  deriving DecidableEq, Repr

/-- The answer on the host target port (R34). -/
structure Response where
  rdata : Word
  error : Bool
  deriving DecidableEq, Repr

/-- Whose step comes next: the three kinds of step of R9 (log entry 1). -/
inductive Turn where
  | host (a : Access)
  | engine
  | reset
  deriving DecidableEq, Repr

/-- The state of the block, and after it the model's own fields. Every read and write of a register goes through
Machine/Ops.lean and Machine/HostPort.lean. -/
structure State where
  -- STATUS (R13), its three fields; its reserved bits read 0 and have no storage (log entry 9)
  err        : BitVec 4
  busy       : Bool
  chunkValid : Bool
  -- operand registers (R14, R15)
  argLen     : Word
  tagin      : Word
  -- the type tag (R16); TAGQ (R17) is computed from it
  tag        : Word
  -- error information (R18, R19)
  errInfo0   : Word
  errInfo1   : Word
  -- the CRC generator's hidden running register (R20); CRC_VALUE (R21) is computed from it
  crcState   : Word
  -- the chunk record (R22 to R25)
  cLength    : Word
  cType      : Word
  cCrc       : Word
  cPcount    : Word
  -- the count of serialized bytes (R26)
  oCount     : Word
  -- the constant registers CONFIG (R27) and CAPACITY (R28): the implementation's parameters (log entry 7)
  config     : LengthCheck
  capacity   : Word
  -- the hidden command latch (R32); CMD itself has no storage (R12)
  cmdl       : Word
  -- the buffers (R35); an IBUF byte's written mark (R33) is set exactly when `ibuf` lists it
  ibuf       : Memory
  pbuf       : Memory
  obuf       : Memory
  -- the model-level FAULT mark (R95)
  faultMark  : Bool
  -- the model's own: R106's interval is open (CMD was written, and no read of STATUS has returned BUSY = 0 since), and
  -- the mark of an access the block took inside it (log entry 16)
  unread     : Bool
  earlyMark  : Bool
  -- the model's own: how many free values have been taken (log entry 5)
  draws      : Nat
  -- the model's own: the port's answer to the last HOST step (log entry 8)
  response   : Option Response
  -- the model's own: the turns still to come (log entry 1)
  schedule   : List Turn
  deriving DecidableEq, Repr

/-- Why a step stops with a fault. -/
inductive Fault where
  /-- Raised by `takeTurn` (Machine/Engine.lean) when the schedule hands the ENGINE a turn while STATUS.BUSY = 0: R56
  gives the ENGINE no step then, so such a schedule is no run of the block. Safe: the model stops (log entry 3). -/
  | engineHasNoStep
  deriving DecidableEq, Repr

/-- Why a step is refused. -/
inductive Refusal where
  /-- Raised by an arm of `exec` whose instruction has no meaning yet; no arm does. Safe: the model stops. -/
  | notModelled (mnemonic : String)
  deriving DecidableEq, Repr

/-- The block right after reset: the reset column of spec/10_state.md section 1 (R102, R103), the constant registers at
the implementation's parameters, and the model's own fields at the values of log entries 5 and 12. -/
def State.reset : State where
  err        := 0#4
  busy       := false
  chunkValid := false
  argLen     := 0#32
  tagin      := 0#32
  tag        := 0#32
  errInfo0   := 0#32
  errInfo1   := 0#32
  crcState   := 0xFFFFFFFF#32
  cLength    := 0#32
  cType      := 0#32
  cCrc       := 0#32
  cPcount    := 0#32
  oCount     := 0#32
  config     := Config.lengthCheck
  capacity   := Config.bufBytes
  cmdl       := 0#32
  ibuf       := []
  pbuf       := []
  obuf       := []
  faultMark  := false
  unread     := false
  earlyMark  := false
  draws      := 0
  response   := none
  schedule   := []

end Sys2Proof.Machine
end

