-- ==== Sys2Proof/Machine/Ops.lean ====
section
/-!
DEFINITION. The named operations over buffers and registers that every meaning is written from, and the recording of a
command's result (spec/60_exceptions.md R90 to R92): the block's one way of "taking an exception".
-/
namespace Sys2Proof.Machine

/-! ### Buffers -/

/-- Offsets strictly rising from `lo` up. -/
def Memory.risingFrom (lo : Nat) : Memory → Bool
  | [] => true
  | (a, _) :: m => decide (lo ≤ a) && Memory.risingFrom (a + 1) m

/-- The canonical form: offsets strictly rising. An unlisted offset has no value, so no entry equals it. -/
def Memory.wf (m : Memory) : Bool := Memory.risingFrom 0 m

/-- Every listed offset is below the buffer's size (R35). -/
def Memory.below (size : Nat) (m : Memory) : Bool := m.all fun c => decide (c.1 < size)

/-- The byte last written at an offset, none where nothing has been written. -/
def Memory.read : Memory → Nat → Option Byte
  | [], _ => none
  | (k, v) :: m, a => if k = a then some v else Memory.read m a

/-- Write one byte, keeping the canonical form. -/
def Memory.write : Memory → Nat → Byte → Memory
  | [], a, b => [(a, b)]
  | (k, v) :: m, a, b =>
    if a < k then (a, b) :: (k, v) :: m
    else if a = k then (a, b) :: m
    else (k, v) :: Memory.write m a b

/-- Write a byte sequence at increasing offsets: `PB[a:a+|bs|) <- bs` (R8). -/
def Memory.writeBytes : Memory → Nat → List Byte → Memory
  | m, _, [] => m
  | m, a, b :: bs => Memory.writeBytes (Memory.write m a b) (a + 1) bs

/-- The written bytes at `a .. a+n-1`, none if one of them is unwritten: no draw is taken. -/
def Memory.bytes (m : Memory) (a : Nat) : Nat → Option (List Byte)
  | 0 => some []
  | n + 1 =>
    match Memory.read m a, Memory.bytes m (a + 1) n with
    | some b, some bs => some (b :: bs)
    | _, _ => none

/-- One read of a buffer byte (R39, R40), with the counter of free values: the byte written there, or a fresh draw. -/
def readByte (m : Memory) (k a : Nat) : Byte × Nat :=
  match m.read a with
  | some b => (b, k)
  | none => (Config.freeByte k, k + 1)

/-- `IB[a:a+n)`: the reads `IB(a), ..., IB(a+n-1)` in order (R8). -/
def readBytes (m : Memory) (k a : Nat) : Nat → List Byte × Nat
  | 0 => ([], k)
  | n + 1 =>
    let r := readByte m k a
    let rest := readBytes m r.2 (a + 1) n
    (r.1 :: rest.1, rest.2)

/-- `be32(b0, b1, b2, b3)`: the byte at the lowest index is the most significant (R5). -/
def be32 (b0 b1 b2 b3 : Byte) : Word := b0 ++ b1 ++ b2 ++ b3

/-- `bebytes(v)`, the inverse of `be32` (R5); `tagbytes(r)` of a tag register (R7). -/
def bebytes (v : Word) : List Byte :=
  [v.extractLsb' 24 8, v.extractLsb' 16 8, v.extractLsb' 8 8, v.extractLsb' 0 8]

/-- `be32(IB(a), IB(a+1), IB(a+2), IB(a+3))`: four byte reads in order, big-endian (R5, R41). -/
def readWord (m : Memory) (k a : Nat) : Word × Nat :=
  let r0 := readByte m k a
  let r1 := readByte m r0.2 (a + 1)
  let r2 := readByte m r1.2 (a + 2)
  let r3 := readByte m r2.2 (a + 3)
  (be32 r0.1 r1.1 r2.1 r3.1, r3.2)

/-- The size of each space in bytes (R35). -/
def spaceSize (s : State) : Space → Nat
  | .reg => 64
  | .ibuf => s.capacity.toNat
  | .pbuf => s.capacity.toNat
  | .obuf => s.capacity.toNat + 12

/-! ### Results of a command -/

/-- The error kinds of R90. -/
inductive ErrorKind where
  | chunkTooShort
  | invalidByte
  | invalidLength
  | invalidCrc
  | lengthOverflow
  | lengthMismatch
  | illegalCmd
  | range
  | noTag
  | noChunk
  deriving DecidableEq, Repr

/-- `code(E)` of R90. Codes 7 and 12 to 15 are reserved and belong to no kind. -/
def errorCode : ErrorKind → BitVec 4
  | .chunkTooShort => 1#4
  | .invalidByte => 2#4
  | .invalidLength => 3#4
  | .invalidCrc => 4#4
  | .lengthOverflow => 5#4
  | .lengthMismatch => 6#4
  | .illegalCmd => 8#4
  | .range => 9#4
  | .noTag => 10#4
  | .noChunk => 11#4

/-- Write the three result registers (R90): every completion does. -/
def report (code : BitVec 4) (i0 i1 : Word) (s : State) : State :=
  { s with err := code, errInfo0 := i0, errInfo1 := i1 }

/-- `raise E(i0, i1)` (R91): nothing else of the block changes. -/
def raise (e : ErrorKind) (i0 i1 : Word) (s : State) : State := report (errorCode e) i0 i1 s

/-- `succeed` (R92). -/
def succeed (s : State) : State := report 0#4 0#32 0#32 s

/-! ### Updates of the state -/

/-- The counter of free values after a command's or an access's reads. -/
def setDraws (k : Nat) (s : State) : State := { s with draws := k }

/-- `TAG <- t` (R16). -/
def setTag (t : Word) (s : State) : State := { s with tag := t }

/-- `CRC_STATE <- c` (R20). -/
def setCrcState (c : Word) (s : State) : State := { s with crcState := c }

/-- The chunk record is written as a whole (spec/10_state.md section 8; R81, R82): C_LENGTH, C_TYPE, C_CRC,
`PB[0:n) <- p`, C_PCOUNT, and CHUNK_VALID <- 1. -/
def setChunk (length type crc count : Word) (p : List Byte) (s : State) : State :=
  { s with cLength := length, cType := type, cCrc := crc, cPcount := count, pbuf := s.pbuf.writeBytes 0 p,
           chunkValid := true }

/-- `OB(i) <- out[i]` for every `i`, and O_COUNT (R84). -/
def setOutput (out : List Byte) (count : Word) (s : State) : State :=
  { s with obuf := s.obuf.writeBytes 0 out, oCount := count }

/-- *Issue* (R55): `CMDL <- w`, `STATUS.BUSY <- 1`; the word is checked only at completion. R106's interval opens. -/
def latchCommand (w : Word) (s : State) : State := { s with cmdl := w, busy := true, unread := true }

/-- `STATUS.BUSY <- 0` (R56). -/
def clearBusy (s : State) : State := { s with busy := false }

/-- The turns still to come. -/
def setSchedule (ts : List Turn) (s : State) : State := { s with schedule := ts }

/-- What the port answers (R34). -/
def setResponse (r : Response) (s : State) : State := { s with response := some r }

/-- R106's interval after an access the block takes: a read of STATUS that returns BUSY = 0 closes it; any other access
inside it is marked (log entry 16). -/
def trackPoll (statusRead : Bool) (s : State) : State :=
  { s with unread := s.unread && (s.busy || !statusRead), earlyMark := s.earlyMark || (s.unread && !statusRead) }

/-- The model records a host fault (R95). -/
def setFaultMark (s : State) : State := { s with faultMark := true }

/-- *Reset* (R102, R103): every register and hidden register at its reset value, every IBUF written mark clear, PBUF and
OBUF unspecified. The constant registers read their parameters; the FAULT mark stays (R95, R102); so do the model's own
fields, but R106's interval is closed, its command being abandoned (log entry 12). -/
def resetBlock (s : State) : State :=
  { State.reset with
    config := s.config, capacity := s.capacity, faultMark := s.faultMark, earlyMark := s.earlyMark, draws := s.draws,
    response := s.response, schedule := s.schedule }

end Sys2Proof.Machine
end

