-- ==== Sys2Proof/Machine/Flags.lean ====
section
/-!
DEFINITION. The computed registers and flags: the byte predicates and the bit queries of the type tag (TAGQ,
spec/40_tag_decoder.md R58 to R65), STATUS (spec/10_state.md R13), CRC_VALUE (R21) and CONFIG (R27).
-/
namespace Sys2Proof.Machine

/-- `letter(b)` (R58). -/
def letter (b : Byte) : Bool :=
  (decide (65 ≤ b.toNat) && decide (b.toNat ≤ 90)) || (decide (97 ≤ b.toNat) && decide (b.toNat ≤ 122))

/-- `letters(r)` (R59): the tag is constructible. -/
def letters (r : Word) : Bool := (bebytes r).all letter

/-- `is_critical` (R60): bit 5 of tag byte 0 is 0. -/
def isCritical (r : Word) : Bool := !r.getLsbD 29

/-- `is_public` (R61): bit 5 of tag byte 1 is 0. -/
def isPublic (r : Word) : Bool := !r.getLsbD 21

/-- `is_reserved_bit_valid` (R62): bit 5 of tag byte 2 is 0. -/
def isReservedOk (r : Word) : Bool := !r.getLsbD 13

/-- `is_safe_to_copy` (R63): bit 5 of tag byte 3 is 1. -/
def isSafeToCopy (r : Word) : Bool := r.getLsbD 5

/-- `is_valid` (R64). -/
def isValid (r : Word) : Bool := letters r && isReservedOk r

/-- One bit at position `n` of a register. -/
def bitAt (n : Nat) (b : Bool) : Word := (BitVec.ofBool b).setWidth 32 <<< n

/-- TAGQ as a function of TAG alone (R17, R65). -/
def tagqOf (r : Word) : Word :=
  bitAt 0 (letters r) ||| bitAt 1 (isCritical r) ||| bitAt 2 (isPublic r) ||| bitAt 3 (isReservedOk r) |||
    bitAt 4 (isSafeToCopy r) ||| bitAt 5 (isValid r)

/-- STATUS (R13): ERR in 3:0, BUSY in 8, CHUNK_VALID in 9, every other bit 0. -/
def statusWord (s : State) : Word := s.err.setWidth 32 ||| bitAt 8 s.busy ||| bitAt 9 s.chunkValid

/-- CRC_VALUE (R21). -/
def crcValue (s : State) : Word := s.crcState ^^^ 0xFFFFFFFF#32

/-- CONFIG (R27): `zext_32(P_LENGTH_CHECK)`. -/
def configWord : LengthCheck → Word
  | .tolerate => 0#32
  | .strict => 1#32

end Sys2Proof.Machine
end

