-- ==== Sys2Proof/Machine/Operands.lean ====
section
/-!
DEFINITION. The operands a command takes from state at its completion (spec/30_encoding.md R54, spec/20_memory.md R48)
and the scan of a type tag's bytes that three commands share.
-/
namespace Sys2Proof.Machine

/-- A byte count `n` or `N`: ARG_LEN, unsigned, in bytes, not scaled (R14, R54). -/
abbrev opCount (s : State) : Word := s.argLen

/-- The 4 raw tag bytes of TAG_LOAD, as the register that holds them (R15, R54). -/
abbrev opRawTag (s : State) : Word := s.tagin

/-- The TypeTag of CHUNK_BUILD (R16, R54). -/
abbrev opTag (s : State) : Word := s.tag

/-- A byte sequence `IBUF[a:a+n)`, each unwritten byte a draw (R39, R54). -/
abbrev opInput (s : State) (k a n : Nat) : List Byte × Nat := readBytes s.ibuf k a n

/-- Four bytes of IBUF read big-endian: a length field, a CRC field or a tag in the byte lanes of R7 (R5, R41). -/
abbrev opInputWord (s : State) (k a : Nat) : Word × Nat := readWord s.ibuf k a

/-- The chunk's payload `PB[0:C_PCOUNT)` (R25, R54). -/
abbrev opPayload (s : State) (k : Nat) : List Byte × Nat := readBytes s.pbuf k 0 s.cPcount.toNat

/-- ERR_INFO0 of INVALID_BYTE: `zext_32(b) or (k << 8)` (R67, R90). -/
def invalidByteInfo (b : Byte) (k : Nat) : Word := zext32 b ||| (BitVec.ofNat 32 k <<< 8)

/-- The scan of R67 over bytes numbered from `k`: ERR_INFO0 of the first byte that is not a letter. -/
def scanFrom (k : Nat) : List Byte → Option Word
  | [] => none
  | b :: bs => if letter b then scanFrom (k + 1) bs else some (invalidByteInfo b k)

/-- The scan of a tag's four bytes, k = 0, 1, 2, 3, first failure wins (R67, R68, R82). -/
def scanTag (t : Word) : Option Word := scanFrom 0 (bebytes t)

end Sys2Proof.Machine
end

