-- ==== Sys2Proof/Machine/Crc.lean ====
section
/-!
DEFINITION. The CRC-32/IEEE function bit by bit (spec/41_crc_generator.md R70 to R73; the initial value, the final xor
and the bit order are marked by the spec as general knowledge: log entry 11) and the meanings of the generator's two
commands (R74, R75).
-/
namespace Sys2Proof.Machine

/-- One turn of R71's loop: shift right, xor the reflected polynomial in when bit 0 was 1. -/
def crcBit (c : Word) : Word := if c.getLsbD 0 then (c >>> 1) ^^^ 0xEDB88320#32 else c >>> 1

/-- R71's loop, `n` times. -/
def crcBits : Nat → Word → Word
  | 0, c => c
  | n + 1, c => crcBits n (crcBit c)

/-- `crc_step(c, b)` (R71). -/
def crcStep (c : Word) (b : Byte) : Word := crcBits 8 (c ^^^ zext32 b)

/-- `crc_fold(c, s)` (R72). -/
def crcFold : Word → List Byte → Word
  | c, [] => c
  | c, b :: t => crcFold (crcStep c b) t

/-- `crc32(s)` (R73). -/
def crc32 (s : List Byte) : Word := crcFold 0xFFFFFFFF#32 s ^^^ 0xFFFFFFFF#32

/-- CRC_INIT's next state (R74). -/
def crcInitNext (s : State) : State := succeed (setCrcState 0xFFFFFFFF#32 s)

/-- **CRC_INIT** (R74). -/
def execCrcInit (s : State) : Host.Outcome State Fault Refusal := .next (crcInitNext s)

/-- CRC_UPDATE's next state (R75). -/
def crcUpdateNext (s : State) : State :=
  if s.capacity.toNat < (opCount s).toNat then raise .range (opCount s) s.capacity s
  else
    let p := opInput s s.draws 0 (opCount s).toNat
    succeed (setCrcState (crcFold s.crcState p.1) (setDraws p.2 s))

/-- **CRC_UPDATE** (R75). -/
def execCrcUpdate (s : State) : Host.Outcome State Fault Refusal := .next (crcUpdateNext s)

end Sys2Proof.Machine
end

