-- ==== Sys2Proof/Machine/Frame.lean ====
section
/-!
DEFINITION. The meanings of the frame unit's commands: the chunk constructor, the frame validator and the serializer
(spec/42_chunk_frame.md R79 to R84). Each computes `crc32` on a private register and leaves CRC_STATE alone
(spec/41_crc_generator.md R76).
-/
namespace Sys2Proof.Machine

/-- The CRC of a chunk covers exactly `tagbytes(type) ++ payload` (R80). -/
def chunkCrc (type : Word) (p : List Byte) : Word := crc32 (bebytes type ++ p)

/-- The bytes of a frame: length, type, payload, CRC, big-endian throughout (R79, R84). -/
def frameBytes (length type crc : Word) (p : List Byte) : List Byte :=
  bebytes length ++ bebytes type ++ p ++ bebytes crc

/-- CHUNK_BUILD's next state (R81). LENGTH_OVERFLOW stands in its place and cannot occur (R101). -/
def chunkBuildNext (s : State) : State :=
  if s.capacity.toNat < (opCount s).toNat then raise .range (opCount s) s.capacity s
  else if !letters (opTag s) then raise .noTag (opTag s) 0#32 s
  else if 2 ^ 32 - 1 < (opCount s).toNat then raise .lengthOverflow (opCount s) 0#32 s
  else
    let p := opInput s s.draws 0 (opCount s).toNat
    succeed (setChunk (opCount s) (opTag s) (chunkCrc (opTag s) p.1) (opCount s) p.1 (setDraws p.2 s))

/-- **CHUNK_BUILD** (R81): construct from TypeTag and payload. -/
def execChunkBuild (s : State) : Host.Outcome State Fault Refusal := .next (chunkBuildNext s)

/-- Steps 4 to 7 of R82, once the tag has passed: `len` is the declared length, `t` the tag, `k` the counter of free
values. The payload is sized by `N`, not by the declared length (spec/90_conflicts.md C2, C3). -/
def chunkDecodeBody (s : State) (len t : Word) (k : Nat) : State :=
  let n := opCount s
  let d := opInputWord s k (n.toNat - 4)
  let p := opInput s d.2 8 (n.toNat - 12)
  if s.config = .strict ∧ len ≠ n - 12#32 then raise .lengthMismatch len (n - 12#32) (setDraws p.2 s)
  else if chunkCrc t p.1 ≠ d.1 then raise .invalidCrc (chunkCrc t p.1) d.1 (setDraws p.2 s)
  else succeed (setChunk len t d.1 (n - 12#32) p.1 (setDraws p.2 s))

/-- CHUNK_DECODE's next state (R82): the checks in the order of R93. -/
def chunkDecodeNext (s : State) : State :=
  let n := opCount s
  if s.capacity.toNat < n.toNat then raise .range n s.capacity s
  else if n.toNat < 12 then raise .chunkTooShort n 0#32 s
  else
    let len := opInputWord s s.draws 0
    let t := opInputWord s len.2 4
    match scanTag t.1 with
    | some info => raise .invalidByte info 0#32 (setDraws t.2 s)
    | none => chunkDecodeBody s len.1 t.1 t.2

/-- **CHUNK_DECODE** (R82): decode from a byte buffer, the frame validator. -/
def execChunkDecode (s : State) : Host.Outcome State Fault Refusal := .next (chunkDecodeNext s)

/-- CHUNK_ENCODE's next state (R84). The size is `12 + C_PCOUNT` and the length field is C_LENGTH as stored
(spec/90_conflicts.md C7). -/
def chunkEncodeNext (s : State) : State :=
  if s.chunkValid then
    let p := opPayload s s.draws
    succeed (setOutput (frameBytes s.cLength s.cType s.cCrc p.1) (12#32 + s.cPcount) (setDraws p.2 s))
  else raise .noChunk 0#32 0#32 s

/-- **CHUNK_ENCODE** (R84): serialize to bytes. -/
def execChunkEncode (s : State) : Host.Outcome State Fault Refusal := .next (chunkEncodeNext s)

end Sys2Proof.Machine
end

