-- ==== Sys2Proof/Machine/Tag.lean ====
section
/-!
DEFINITION. The meanings of the type-tag decoder's commands (spec/40_tag_decoder.md R67 to R69).
-/
namespace Sys2Proof.Machine

/-- TAG_LOAD's next state (R67). -/
def tagLoadNext (s : State) : State :=
  match scanTag (opRawTag s) with
  | some info => raise .invalidByte info 0#32 s
  | none => succeed (setTag (opRawTag s) s)

/-- **TAG_LOAD** (R67): construct from 4 raw bytes. -/
def execTagLoad (s : State) : Host.Outcome State Fault Refusal := .next (tagLoadNext s)

/-- TAG_LOAD_STR's next state (R68). INVALID_LENGTH is checked before any IBUF byte is read. -/
def tagLoadStrNext (s : State) : State :=
  if opCount s ≠ 4#32 then raise .invalidLength (opCount s) 0#32 s
  else
    let t := opInputWord s s.draws 0
    match scanTag t.1 with
    | some info => raise .invalidByte info 0#32 (setDraws t.2 s)
    | none => succeed (setTag t.1 (setDraws t.2 s))

/-- **TAG_LOAD_STR** (R68): construct from a text string. -/
def execTagLoadStr (s : State) : Host.Outcome State Fault Refusal := .next (tagLoadStrNext s)

/-- TAG_FROM_CHUNK's next state (R69). -/
def tagFromChunkNext (s : State) : State :=
  if s.chunkValid then succeed (setTag s.cType s) else raise .noChunk 0#32 0#32 s

/-- **TAG_FROM_CHUNK** (R69): the `chunk_type()` accessor, a copy. -/
def execTagFromChunk (s : State) : Host.Outcome State Fault Refusal := .next (tagFromChunkNext s)

end Sys2Proof.Machine
end

