-- ==== Sys2Proof/Machine/Dispatch.lean ====
section
/-!
DEFINITION. One arm per command of spec/opcode_table.json.
-/
namespace Sys2Proof.Machine

def exec (i : Instr) (s : State) : Host.Outcome State Fault Refusal :=
  match i with
  | .tagLoad => Sys2Proof.Machine.execTagLoad s
  | .tagLoadStr => Sys2Proof.Machine.execTagLoadStr s
  | .tagFromChunk => Sys2Proof.Machine.execTagFromChunk s
  | .crcInit => Sys2Proof.Machine.execCrcInit s
  | .crcUpdate => Sys2Proof.Machine.execCrcUpdate s
  | .chunkBuild => Sys2Proof.Machine.execChunkBuild s
  | .chunkDecode => Sys2Proof.Machine.execChunkDecode s
  | .chunkEncode => Sys2Proof.Machine.execChunkEncode s

end Sys2Proof.Machine
end

