-- ==== Sys2Proof/Machine/HostPort.lean ====
section
/-!
DEFINITION. The host target port: the register map (spec/10_state.md section 1), which accesses the block takes
(spec/20_memory.md R36, R37; spec/70_reset_and_hazards.md R106), what each does, and what a host fault does
(spec/60_exceptions.md R95).
-/
namespace Sys2Proof.Machine

/-! ### The register map -/

/-- The sixteen registers of the REG space. -/
inductive Reg where
  | cmd
  | status
  | argLen
  | tagin
  | tag
  | tagq
  | errInfo0
  | errInfo1
  | crcValue
  | cLength
  | cType
  | cCrc
  | cPcount
  | oCount
  | config
  | capacity
  deriving DecidableEq, Repr

/-- The registers in the order of their offsets, 4 bytes each from 0x00 to 0x3C. -/
def regMap : List Reg :=
  [.cmd, .status, .argLen, .tagin, .tag, .tagq, .errInfo0, .errInfo1,
   .crcValue, .cLength, .cType, .cCrc, .cPcount, .oCount, .config, .capacity]

/-- The register at a REG offset: none where the offset is not a multiple of 4, or is 0x40 or above (R29, R36). -/
def regAt (off : Word) : Option Reg := if off.toNat % 4 = 0 then regMap[off.toNat / 4]? else none

/-- `off(reg)` (spec/30_encoding.md R57). -/
def regOff : Reg → Word
  | .cmd => 0x00#32
  | .status => 0x04#32
  | .argLen => 0x08#32
  | .tagin => 0x0C#32
  | .tag => 0x10#32
  | .tagq => 0x14#32
  | .errInfo0 => 0x18#32
  | .errInfo1 => 0x1C#32
  | .crcValue => 0x20#32
  | .cLength => 0x24#32
  | .cType => 0x28#32
  | .cCrc => 0x2C#32
  | .cPcount => 0x30#32
  | .oCount => 0x34#32
  | .config => 0x38#32
  | .capacity => 0x3C#32

/-- The registers the host may write (R10, R36). -/
def regWritable : Reg → Bool
  | .cmd => true
  | .argLen => true
  | .tagin => true
  | _ => false

/-- A read of a register (R12 to R28): CMD reads 0; TAGQ, CRC_VALUE, CONFIG are computed. No side effect (R43). -/
def readReg (s : State) : Reg → Word
  | .cmd => 0#32
  | .status => statusWord s
  | .argLen => s.argLen
  | .tagin => s.tagin
  | .tag => s.tag
  | .tagq => tagqOf s.tag
  | .errInfo0 => s.errInfo0
  | .errInfo1 => s.errInfo1
  | .crcValue => crcValue s
  | .cLength => s.cLength
  | .cType => s.cType
  | .cCrc => s.cCrc
  | .cPcount => s.cPcount
  | .oCount => s.oCount
  | .config => configWord s.config
  | .capacity => s.capacity

/-- A write to a register (R36): CMD issues (R55), ARG_LEN and TAGIN store the value. The read-only registers take none
(such a write is a host fault and does not reach here). -/
def writeReg (s : State) (r : Reg) (v : Word) : State :=
  match r with
  | .cmd => latchCommand v s
  | .argLen => { s with argLen := v }
  | .tagin => { s with tagin := v }
  | _ => s

/-! ### Host faults -/

/-- The cases of R95. -/
inductive HostFault where
  | badRegAccess       -- (a) not 4 bytes, not aligned, or at offset 0x40 or above
  | readOnlyRegister   -- (b) a write to a read-only register
  | badBufferAccess    -- (c) not 1 byte, or past the buffer's end
  | readOnlyBuffer     -- (d) a write to PBUF or OBUF
  | whileBusy          -- (e) while BUSY = 1, anything but a read of STATUS
  deriving DecidableEq, Repr

/-- A read of STATUS, the one access defined while BUSY = 1 (R106). -/
def isStatusRead (a : Access) : Bool :=
  decide (a.space = .reg) && decide (a.off = 0x04#32) && decide (a.size = .word) && !a.write

/-- The host fault a REG access is, if any (R36, R95 a and b). -/
def regFault (a : Access) : Option HostFault :=
  match a.size, regAt a.off with
  | .word, some r => if a.write && !regWritable r then some .readOnlyRegister else none
  | _, _ => some .badRegAccess

/-- The host fault a buffer access is, if any (R37, R95 c and d). -/
def bufferFault (s : State) (a : Access) : Option HostFault :=
  if a.size ≠ .byte ∨ spaceSize s a.space ≤ a.off.toNat then some .badBufferAccess
  else if a.write && decide (a.space ≠ .ibuf) then some .readOnlyBuffer
  else none

/-- The host fault an access is, none for the accesses the block takes (R36, R37, R95, R106). -/
def hostFaultOf (s : State) (a : Access) : Option HostFault :=
  if s.busy && !isStatusRead a then some .whileBusy
  else if a.space = .reg then regFault a else bufferFault s a

/-! ### The accesses the block takes -/

/-- A read below `count` returns the byte held there; at or above it, a draw (R40). -/
def readHeld (m : Memory) (k count a : Nat) : Byte × Nat :=
  if a < count then readByte m k a else (Config.freeByte k, k + 1)

/-- What a read returns on `rdata`, and the counter of free values after it: a register (R36), or a buffer byte
zero-extended (R37, R39, R40). -/
def readData (s : State) (a : Access) : Word × Nat :=
  match a.space with
  | .reg => (((regAt a.off).map (readReg s)).getD 0#32, s.draws)
  | .ibuf => (readByte s.ibuf s.draws a.off.toNat).map zext32 id
  | .pbuf => (readHeld s.pbuf s.draws s.cPcount.toNat a.off.toNat).map zext32 id
  | .obuf => (readHeld s.obuf s.draws s.oCount.toNat a.off.toNat).map zext32 id

/-- A host read: it changes nothing of the block (R43). The `error` line is 0 (log entry 8). -/
def hostRead (s : State) (a : Access) : State :=
  let r := readData s a
  setResponse ⟨r.1, false⟩ (setDraws r.2 s)

/-- What a write stores: a register (R36), or the byte `v[7:0]` of IBUF with its written mark (R37). -/
def storeData (s : State) (a : Access) : State :=
  match a.space with
  | .reg => ((regAt a.off).map fun r => writeReg s r a.wdata).getD s
  | .ibuf => { s with ibuf := s.ibuf.write a.off.toNat (a.wdata.setWidth 8) }
  | .pbuf => s
  | .obuf => s

/-- A host write. What `rdata` holds after a write is not stated: a free value (log entry 8). -/
def hostWrite (s : State) (a : Access) : State :=
  setResponse ⟨Config.freeWord s.draws, false⟩ (setDraws (s.draws + 1) (storeData s a))

/-- A host fault (R95): the FAULT mark is set, the block is unchanged, the port's answer is unspecified: free values
(log entry 4). -/
def recordHostFault (s : State) : State :=
  setFaultMark (setResponse ⟨Config.freeWord s.draws, Config.freeBit s.draws⟩ (setDraws (s.draws + 1) s))

/-- One HOST step (R35). -/
def hostAccess (a : Access) (s : State) : State :=
  match hostFaultOf s a with
  | some _ => recordHostFault s
  | none =>
    let s := trackPoll (isStatusRead a) s
    if a.write then hostWrite s a else hostRead s a

/-! ### The platform's addresses -/

/-- The system address of offset `off` of a space: `P_BASE_X + off` (R45). -/
def systemAddress (x : Space) (off : Word) : Nat := Config.base x + off.toNat

/-- The access at a system address taken as one to space `x`: none below the space's base or past a 32-bit offset
(R45; log entry 13). -/
def accessAtAddress (x : Space) (addr : Nat) (write : Bool) (size : Size) (wdata : Word) : Option Access :=
  if Config.base x ≤ addr ∧ addr - Config.base x < 2 ^ 32 then
    some ⟨x, BitVec.ofNat 32 (addr - Config.base x), write, size, wdata⟩
  else none

end Sys2Proof.Machine
end

