-- ==== Sys2Proof/Machine/Engine.lean ====
section
/-!
DEFINITION. The completion of the command in flight (spec/30_encoding.md R56) and the choice of the next step
(spec/00_scope.md R9): HOST, ENGINE or reset.
-/
namespace Sys2Proof.Machine

/-- `STATUS.BUSY <- 0` at the end of a completion (R56); a stop stays a stop. -/
def endCompletion : Host.Outcome State Fault Refusal → Host.Outcome State Fault Refusal
  | .next t => .next (clearBusy t)
  | .fault r => .fault r
  | .refused r => .refused r

/-- *Completion* (R56): an illegal word raises ILLEGAL_CMD(w) (R52); a command performs its rule; then BUSY is cleared.
The step is atomic (R43). -/
def complete (s : State) : Host.Outcome State Fault Refusal :=
  match decode s.cmdl with
  | .error _ => endCompletion (.next (raise .illegalCmd s.cmdl 0#32 s))
  | .ok i => endCompletion (exec i s)

/-- The ENGINE's step: it has one exactly when BUSY = 1 (R56; log entry 3). -/
def engineTurn (s : State) : Host.Outcome State Fault Refusal :=
  if s.busy then complete s else .fault .engineHasNoStep

/-- The next step (R9). With no turn left, a command in flight completes (R107, weak fairness; log entry 2), and an idle
block waits for the host. -/
def takeTurn (s : State) : Host.Outcome State Fault Refusal :=
  match s.schedule with
  | [] => if s.busy then complete s else .next s
  | .host a :: ts => .next (hostAccess a (setSchedule ts s))
  | .engine :: ts => engineTurn (setSchedule ts s)
  | .reset :: ts => .next (resetBlock (setSchedule ts s))

/-- A command word placed where the next step takes its command: latched as an issue does (R55), with the ENGINE's turn
next (log entry 1). -/
def placeCommand (w : Word) (s : State) : State := setSchedule (.engine :: s.schedule) (latchCommand w s)

end Sys2Proof.Machine
end

