-- ==== Sys2Proof/Machine/Step.lean ====
section
/-!
DEFINITION. One step of the machine (spec/00_scope.md R9).
-/
namespace Sys2Proof.Machine

/-- The next step of the agent whose turn it is. -/
def step (s : State) : Host.Outcome State Fault Refusal := takeTurn s

/-- The state in which the next step is the completion of the command word `w` (its bits at or above `nbits` are 0). -/
def State.withFetchWord (s : State) (nbits w : Nat) : State := placeCommand (BitVec.ofNat 32 (w % 2 ^ nbits)) s

end Sys2Proof.Machine
end

