-- ==== Sys2Proof/Safety.lean ====
section
/-!
DEFINITION. The terms statements are made in: the block's own state apart from the model's fields, what counts as a safe
run, the accesses that break the host protocol as spec/60_exceptions.md R95 lists them, what a buffer reads as, and the
invariants of spec/10_state.md (R30, R31), spec/60_exceptions.md (R101) and the model's buffers.
-/
namespace Sys2Proof.Machine

/-- The block's own state: everything of `s` but the marks, the count of free values, the port's last answer and the
turns to come. Two states with the same `blockOf` hold the same registers, latches and buffers. -/
def blockOf (s : State) : State :=
  { s with faultMark := false, unread := false, earlyMark := false, draws := 0, response := none, schedule := [] }

/-- A safe run is one whose states carry no FAULT mark ("every claim assumes no fault", spec/93_implementation_defined.md
U6), nor the mark of an access inside R106's interval (log entry 16). -/
abbrev Safe (s : State) : Prop := s.faultMark = false ∧ s.earlyMark = false

/-- The ENGINE has the next step: its turn is first, or no turn is left, while a command is in flight (R9, R56, R107). -/
abbrev EngineIsNext (s : State) : Prop :=
  s.busy = true ∧ (s.schedule = [] ∨ s.schedule.head? = some .engine)

/-- A read of STATUS (R106): a 4-byte read of REG offset 0x04. -/
abbrev IsStatusRead (a : Access) : Prop :=
  a.space = .reg ∧ a.off = 0x04#32 ∧ a.size = .word ∧ a.write = false

/-- The accesses that break the host protocol, cases (a) to (e) of R95. -/
abbrev BreaksProtocol (s : State) (a : Access) : Prop :=
  (a.space = .reg ∧ (a.size ≠ .word ∨ a.off.toNat % 4 ≠ 0 ∨ 0x40 ≤ a.off.toNat)) ∨
  (a.space = .reg ∧ a.write = true ∧ a.off ≠ 0x00#32 ∧ a.off ≠ 0x08#32 ∧ a.off ≠ 0x0C#32) ∨
  (a.space ≠ .reg ∧ (a.size ≠ .byte ∨ spaceSize s a.space ≤ a.off.toNat)) ∨
  ((a.space = .pbuf ∨ a.space = .obuf) ∧ a.write = true) ∨
  (s.busy = true ∧ ¬ IsStatusRead a)

/-- `bs` is what `n` reads of a buffer from offset `a` may return (R39): each byte written there, and any byte where
nothing has been written. -/
def ReadsAs (m : Memory) (a n : Nat) (bs : List Byte) : Prop :=
  bs.length = n ∧ ∀ i b, i < n → m.read (a + i) = some b → bs[i]? = some b

/-- A letter by its code, `A` to `Z` or `a` to `z` (R58). -/
abbrev IsLetter (b : Byte) : Prop := (65 ≤ b.toNat ∧ b.toNat ≤ 90) ∨ (97 ≤ b.toNat ∧ b.toNat ≤ 122)

/-- Byte `k` of a tag register: bits `[31-8k : 24-8k]` (R7). -/
def tagByte (r : Word) (k : Nat) : Byte := r.extractLsb' (24 - 8 * k) 8

/-- `k` is the index of the first of a tag's four bytes that is not a letter (R67: "scanned in order, first failure
wins"). -/
abbrev FirstNonLetter (r : Word) (k : Nat) : Prop :=
  k < 4 ∧ ¬ IsLetter (tagByte r k) ∧ ∀ j, j < k → IsLetter (tagByte r j)

/-- Every byte of a tag is a letter: the tag is constructible (R59). -/
abbrev AllLetters (r : Word) : Prop := ∀ k, k < 4 → IsLetter (tagByte r k)

/-- The big-endian word at index `i` of a byte sequence (R5). -/
def wordOf (bs : List Byte) (i : Nat) : Word :=
  be32 (bs.getD i 0#8) (bs.getD (i + 1) 0#8) (bs.getD (i + 2) 0#8) (bs.getD (i + 3) 0#8)

/-- A command word is illegal (R52): RSVD is not 0, or OP is one of the reserved values as R52 lists them. -/
abbrev IllegalWord (w : Word) : Prop :=
  w.extractLsb' 8 24 ≠ 0#24 ∨
  (w.extractLsb' 0 8).toNat = 0x00 ∨
  (0x04 ≤ (w.extractLsb' 0 8).toNat ∧ (w.extractLsb' 0 8).toNat ≤ 0x0F) ∨
  (0x12 ≤ (w.extractLsb' 0 8).toNat ∧ (w.extractLsb' 0 8).toNat ≤ 0x1F) ∨
  0x23 ≤ (w.extractLsb' 0 8).toNat

/-- The parameters are in range (R1). -/
abbrev ParamsOk (s : State) : Prop := WellFormed.bufBytes s.capacity = true

/-- ERR is none of the values that are never written (R101). -/
abbrev ErrOk (s : State) : Prop :=
  s.err ≠ 5#4 ∧ s.err ≠ 7#4 ∧ s.err ≠ 12#4 ∧ s.err ≠ 13#4 ∧ s.err ≠ 14#4 ∧ s.err ≠ 15#4

/-- TAG is 0 or constructible (R31), and a chunk record's type is constructible (R30). -/
abbrev TagsOk (s : State) : Prop :=
  (s.tag = 0#32 ∨ letters s.tag = true) ∧ (s.chunkValid = true → letters s.cType = true)

/-- The three buffers are in canonical form and list no offset past their ends (R35). -/
abbrev BuffersOk (s : State) : Prop :=
  (s.ibuf.wf = true ∧ s.ibuf.below s.capacity.toNat = true) ∧
  (s.pbuf.wf = true ∧ s.pbuf.below s.capacity.toNat = true) ∧
  (s.obuf.wf = true ∧ s.obuf.below (s.capacity.toNat + 12) = true)

/-- The chunk record (R30): the payload bytes are all held, C_CRC is their CRC with the type, C_PCOUNT fits the buffer,
and under STRICT C_LENGTH is C_PCOUNT; while no chunk is held the registers read their reset values (R85). -/
def ChunkOk (s : State) : Prop :=
  (s.chunkValid = true →
    (∃ p, s.pbuf.bytes 0 s.cPcount.toNat = some p ∧ s.cCrc = chunkCrc s.cType p) ∧
    s.cPcount.toNat ≤ s.capacity.toNat ∧ (s.config = .strict → s.cLength = s.cPcount)) ∧
  (s.chunkValid = false → s.cLength = 0#32 ∧ s.cType = 0#32 ∧ s.cCrc = 0#32 ∧ s.cPcount = 0#32)

/-- The serialized bytes OBUF[0:O_COUNT) are all held and fit the buffer (R26, R35). -/
def OutputOk (s : State) : Prop :=
  (∃ out, s.obuf.bytes 0 s.oCount.toNat = some out) ∧ s.oCount.toNat ≤ s.capacity.toNat + 12

/-- The block's invariant. -/
structure BlockInv (s : State) : Prop where
  params  : ParamsOk s
  err     : ErrOk s
  tags    : TagsOk s
  buffers : BuffersOk s
  chunk   : ChunkOk s
  output  : OutputOk s

end Sys2Proof.Machine
end

