-- ==== Sys2Proof/Certificates/Slice0/Obligations.lean ====
section
/-!
DEFINITION. The statements for the provers. Each docstring names the rule or the section of spec/ that the statement
formalises; where a clause rests on a choice of the model or on a passage the spec marks as its own inference or as
general knowledge, the docstring says so.
-/
open Sys2Proof Sys2Proof.Machine

/-! ### Encoding -/

/-- spec/30_encoding.md R50, R51: a command's word decodes to it, and no other word does. -/
def Obligations.DecodeAndEncodeAgree : Prop :=
  (∀ i : Instr, i.wellFormed = true → decode (encode i) = .ok i) ∧
  ∀ (w : Word) (i : Instr), decode w = .ok i → w = encode i

/-- The eight words of spec/30_encoding.md R51, written out, decode to the commands they stand for. -/
def Obligations.OpcodeMapWordsDecode : Prop :=
  decode 0b00000000000000000000000000000001#32 = .ok .tagLoad ∧
  decode 0b00000000000000000000000000000010#32 = .ok .tagLoadStr ∧
  decode 0b00000000000000000000000000000011#32 = .ok .tagFromChunk ∧
  decode 0b00000000000000000000000000010000#32 = .ok .crcInit ∧
  decode 0b00000000000000000000000000010001#32 = .ok .crcUpdate ∧
  decode 0b00000000000000000000000000100000#32 = .ok .chunkBuild ∧
  decode 0b00000000000000000000000000100001#32 = .ok .chunkDecode ∧
  decode 0b00000000000000000000000000100010#32 = .ok .chunkEncode

/-- spec/30_encoding.md R52: a word is illegal exactly when RSVD is not 0 or OP is one of the listed reserved values; an
illegal command completes with ILLEGAL_CMD (code 8) of the whole word and nothing else of the block changes; every
other word is a command. -/
def Obligations.IllegalWordCompletesWithIllegalCmd : Prop :=
  (∀ s : State, EngineIsNext s → IllegalWord s.cmdl →
    step s = .next { s with schedule := s.schedule.tail, busy := false, err := 8#4, errInfo0 := s.cmdl,
                            errInfo1 := 0#32 }) ∧
  ∀ w : Word, ¬ IllegalWord w → ∃ i, decode w = .ok i

/-! ### Issue and completion -/

/-- spec/30_encoding.md R56: when the ENGINE is next, the step performs the rule of the latched command and then clears
BUSY. The turn the schedule gave the ENGINE is used up (the model's schedule: log entry 1). -/
def Obligations.EngineStepRunsLatchedCommand : Prop :=
  ∀ (s : State) (i : Instr), EngineIsNext s → decode s.cmdl = .ok i →
    step s = match exec i { s with schedule := s.schedule.tail } with
      | .next t => .next { t with busy := false }
      | .fault r => .fault r
      | .refused r => .refused r

/-- spec/30_encoding.md R56 ("The ENGINE has a step exactly when STATUS.BUSY = 1"): with BUSY = 0 an ENGINE turn is no
step (the model's fault, log entry 3), and with no turn left an idle block waits (log entry 2). -/
def Obligations.EngineHasNoStepWhenIdle : Prop :=
  (∀ (s : State) (ts : List Turn), s.busy = false → s.schedule = .engine :: ts → step s = .fault .engineHasNoStep) ∧
  ∀ s : State, s.busy = false → s.schedule = [] → step s = .next s

/-- spec/30_encoding.md R56 ("The step always ends"): whatever word is latched, the ENGINE's step answers a next state,
with BUSY = 0. -/
def Obligations.EveryCompletionEnds : Prop :=
  ∀ s : State, EngineIsNext s → ∃ t, step s = .next t ∧ t.busy = false

/-- spec/30_encoding.md R55: a write to CMD while BUSY = 0 latches the word and sets BUSY, and has no other effect on the
block; the word is not checked. While BUSY = 1 it is a host fault. -/
def Obligations.CmdWriteIssuesCommand : Prop :=
  ∀ (s : State) (w : Word) (ts : List Turn), s.schedule = .host ⟨.reg, 0x00#32, true, .word, w⟩ :: ts →
    (s.busy = false → ∃ t, step s = .next t ∧ blockOf t = blockOf { s with cmdl := w, busy := true } ∧
      t.schedule = ts ∧ t.faultMark = s.faultMark) ∧
    (s.busy = true → ∃ t, step s = .next t ∧ blockOf t = blockOf s ∧ t.schedule = ts ∧ t.faultMark = true)

/-- spec/70_reset_and_hazards.md R107, the finite latency: in the model (log entry 2) BUSY returns to 0 within one step
more than the turns still to come, and no step on the way stops. -/
def Obligations.BusyEndsWithinTheSchedule : Prop :=
  ∀ s : State, s.busy = true → ∃ (k : Nat) (t : State), k ≤ s.schedule.length + 1 ∧
    Host.Core.run Sys2Proof.core k s = .next t ∧ t.busy = false

/-- The model's placing of a command word (log entry 1): the very next step is its completion. -/
def Obligations.PlacedWordRunsNext : Prop :=
  ∀ (s : State) (i : Instr),
    step (s.withFetchWord 32 (encode i).toNat) =
      match exec i { s with cmdl := encode i, busy := true, unread := true } with
      | .next t => .next { t with busy := false }
      | .fault r => .fault r
      | .refused r => .refused r

/-! ### The host port -/

/-- spec/60_exceptions.md R95: an access of cases (a) to (e) sets the FAULT mark and leaves every piece of block state
unchanged, and no later step, reset included, clears the mark. -/
def Obligations.HostFaultSetsMarkAndLeavesBlock : Prop :=
  (∀ (s : State) (a : Access) (ts : List Turn), s.schedule = .host a :: ts → BreaksProtocol s a →
    ∃ t, step s = .next t ∧ t.faultMark = true ∧ blockOf t = blockOf s ∧ t.schedule = ts) ∧
  ∀ s t : State, step s = .next t → s.faultMark = true → t.faultMark = true

/-- spec/20_memory.md R35 to R37: an access that is none of the cases (a) to (e) of R95, with (e) read as while STATUS.BUSY
is 1, is taken and leaves the FAULT mark as it was. That reading is the model's choice (log entry 16, DEDUCED): by the
wording of spec/70_reset_and_hazards.md R106, an access after the completion and before a read of STATUS has returned
BUSY = 0 would be a host fault too; the model takes it and sets the early mark (EarlyAccessIsMarked). -/
def Obligations.DefinedAccessSetsNoFaultMark : Prop :=
  ∀ (s : State) (a : Access) (ts : List Turn), s.schedule = .host a :: ts → ¬ BreaksProtocol s a →
    ∃ t, step s = .next t ∧ t.faultMark = s.faultMark ∧ t.schedule = ts

/-- spec/10_state.md section 1, R12 to R28, and spec/20_memory.md R36: what a read of each of the sixteen registers returns while
BUSY = 0, and that it changes nothing of the block. (That it is taken inside R106's interval too, once BUSY is 0, is the
model's reading: log entry 16.) -/
def Obligations.RegisterReadReturnsRegister : Prop :=
  ∀ (s : State) (ts : List Turn) (off v d : Word), s.busy = false →
    s.schedule = .host ⟨.reg, off, false, .word, d⟩ :: ts →
    (off, v) ∈ [ (0x00#32, 0#32),
                 (0x04#32, 0#22 ++ BitVec.ofBool s.chunkValid ++ 0#1 ++ 0#4 ++ s.err),
                 (0x08#32, s.argLen), (0x0C#32, s.tagin), (0x10#32, s.tag), (0x14#32, tagqOf s.tag),
                 (0x18#32, s.errInfo0), (0x1C#32, s.errInfo1), (0x20#32, s.crcState ^^^ 0xFFFFFFFF#32),
                 (0x24#32, s.cLength), (0x28#32, s.cType), (0x2C#32, s.cCrc), (0x30#32, s.cPcount),
                 (0x34#32, s.oCount), (0x38#32, if s.config = .strict then 1#32 else 0#32),
                 (0x3C#32, s.capacity) ] →
    ∃ t r, step s = .next t ∧ t.response = some r ∧ r.rdata = v ∧ blockOf t = blockOf s ∧
      t.faultMark = s.faultMark ∧ t.schedule = ts

/-- spec/70_reset_and_hazards.md R106: while BUSY = 1 a read of STATUS is taken; it returns BUSY = 1 with the previous
command's ERR and CHUNK_VALID, and changes nothing of the block. -/
def Obligations.BusyStatusReadShowsPreviousResult : Prop :=
  ∀ (s : State) (d : Word) (ts : List Turn), s.busy = true →
    s.schedule = .host ⟨.reg, 0x04#32, false, .word, d⟩ :: ts →
    ∃ t r, step s = .next t ∧ t.response = some r ∧
      r.rdata = 0#22 ++ BitVec.ofBool s.chunkValid ++ 1#1 ++ 0#4 ++ s.err ∧
      blockOf t = blockOf s ∧ t.faultMark = s.faultMark ∧ t.schedule = ts

/-- spec/20_memory.md R36, spec/10_state.md R14, R15: a write to ARG_LEN or TAGIN while BUSY = 0 stores the 32-bit value
and changes nothing else of the block. (Inside R106's interval too, once BUSY is 0: the model's reading, log entry 16.) -/
def Obligations.OperandWriteStoresValue : Prop :=
  ∀ (s : State) (v : Word) (ts : List Turn), s.busy = false →
    (s.schedule = .host ⟨.reg, 0x08#32, true, .word, v⟩ :: ts →
      ∃ t, step s = .next t ∧ blockOf t = blockOf { s with argLen := v } ∧ t.faultMark = s.faultMark) ∧
    (s.schedule = .host ⟨.reg, 0x0C#32, true, .word, v⟩ :: ts →
      ∃ t, step s = .next t ∧ blockOf t = blockOf { s with tagin := v } ∧ t.faultMark = s.faultMark)

/-- spec/20_memory.md R37, R39: a byte written to IBUF is `v[7:0]`; a read that follows returns it zero-extended; the
byte's written mark is set; every other byte of IBUF and every other piece of block state is unchanged. (Inside R106's
interval too, once BUSY is 0: the model's reading, log entry 16.) -/
def Obligations.IbufWriteThenReadReturnsByte : Prop :=
  ∀ (s : State) (off v d : Word) (ts : List Turn), s.busy = false → off.toNat < s.capacity.toNat →
    s.schedule = .host ⟨.ibuf, off, true, .byte, v⟩ :: .host ⟨.ibuf, off, false, .byte, d⟩ :: ts →
    ∃ t u r, step s = .next t ∧ step t = .next u ∧ u.response = some r ∧
      r.rdata = zext32 (v.extractLsb' 0 8) ∧ u.ibuf.read off.toNat = some (v.extractLsb' 0 8) ∧
      (∀ a, a ≠ off.toNat → u.ibuf.read a = s.ibuf.read a) ∧
      blockOf u = blockOf { s with ibuf := u.ibuf } ∧ u.faultMark = s.faultMark

/-- spec/20_memory.md R37, R39, R40: a read of a buffer byte while BUSY = 0 returns a byte, zero-extended, and changes
nothing of the block: in IBUF the byte written there, in PBUF below C_PCOUNT the payload byte, in OBUF below O_COUNT the
serialized byte, and anywhere else any byte. (Inside R106's interval too, once BUSY is 0: the model's reading, log
entry 16.) -/
def Obligations.BufferReadReturnsHeldByte : Prop :=
  ∀ (s : State) (x : Space) (off d : Word) (ts : List Turn), s.busy = false → x ≠ .reg →
    off.toNat < spaceSize s x → s.schedule = .host ⟨x, off, false, .byte, d⟩ :: ts →
    ∃ t r b, step s = .next t ∧ t.response = some r ∧ r.rdata = zext32 b ∧ blockOf t = blockOf s ∧
      t.faultMark = s.faultMark ∧
      (x = .ibuf → ∀ v, s.ibuf.read off.toNat = some v → b = v) ∧
      (x = .pbuf → off.toNat < s.cPcount.toNat → ∀ v, s.pbuf.read off.toNat = some v → b = v) ∧
      (x = .obuf → off.toNat < s.oCount.toNat → ∀ v, s.obuf.read off.toNat = some v → b = v)

/-- spec/20_memory.md R43: every host read, of STATUS too, has no side effect on the block. -/
def Obligations.HostReadsHaveNoSideEffect : Prop :=
  ∀ (s : State) (a : Access) (ts : List Turn), a.write = false → s.schedule = .host a :: ts →
    ∃ t, step s = .next t ∧ blockOf t = blockOf s

/-- The model's marking of R106's interval (log entry 16): an access other than a read of STATUS that the block takes
while the interval is open is marked; a read of STATUS that returns BUSY = 0 closes the interval. -/
def Obligations.EarlyAccessIsMarked : Prop :=
  (∀ (s : State) (a : Access) (ts : List Turn), s.schedule = .host a :: ts → s.unread = true →
    ¬ BreaksProtocol s a → ¬ IsStatusRead a → ∃ t, step s = .next t ∧ t.earlyMark = true) ∧
  ∀ (s : State) (a : Access) (ts : List Turn), s.schedule = .host a :: ts → s.busy = false → IsStatusRead a →
    ∃ t, step s = .next t ∧ t.unread = false ∧ t.earlyMark = s.earlyMark

/-- spec/20_memory.md R45: the access at system address `P_BASE_X + off` is the access at offset `off` of space X. -/
def Obligations.SystemAddressIsSpaceOffset : Prop :=
  ∀ (x : Space) (off v : Word) (w : Bool) (z : Size),
    accessAtAddress x (systemAddress x off) w z v = some ⟨x, off, w, z, v⟩

/-! ### Reset -/

/-- spec/70_reset_and_hazards.md R102: a reset sets every register and hidden register to its reset value, clears every
IBUF written mark, abandons a command in flight, keeps the constant registers and the FAULT mark; TAGQ then reads
0x0000000E and CRC_VALUE 0. It may come while BUSY = 1. PBUF and OBUF are unspecified then: nothing is said of them. -/
def Obligations.ResetStepSetsResetValues : Prop :=
  ∀ (s : State) (ts : List Turn), s.schedule = .reset :: ts →
    ∃ t, step s = .next t ∧
      blockOf t = blockOf { s with
        err := 0#4, busy := false, chunkValid := false, argLen := 0#32, tagin := 0#32, tag := 0#32,
        errInfo0 := 0#32, errInfo1 := 0#32, crcState := 0xFFFFFFFF#32, cLength := 0#32, cType := 0#32, cCrc := 0#32,
        cPcount := 0#32, oCount := 0#32, cmdl := 0#32, ibuf := t.ibuf, pbuf := t.pbuf, obuf := t.obuf } ∧
      (∀ a, t.ibuf.read a = none) ∧ t.faultMark = s.faultMark ∧ t.schedule = ts ∧
      tagqOf t.tag = 0x0000000E#32 ∧ crcValue t = 0#32

/-- spec/10_state.md section 1: the block at reset, register by register, the constant registers at the implementation's
parameters (P_LENGTH_CHECK in bit 0 of CONFIG, P_BUF_BYTES in CAPACITY). -/
def Obligations.ResetStateHoldsResetColumn : Prop :=
  State.reset.err = 0#4 ∧ State.reset.busy = false ∧ State.reset.chunkValid = false ∧
  statusWord State.reset = 0#32 ∧ State.reset.argLen = 0#32 ∧ State.reset.tagin = 0#32 ∧ State.reset.tag = 0#32 ∧
  tagqOf State.reset.tag = 0x0000000E#32 ∧ State.reset.errInfo0 = 0#32 ∧ State.reset.errInfo1 = 0#32 ∧
  State.reset.crcState = 0xFFFFFFFF#32 ∧ crcValue State.reset = 0#32 ∧ State.reset.cLength = 0#32 ∧
  State.reset.cType = 0#32 ∧ State.reset.cCrc = 0#32 ∧ State.reset.cPcount = 0#32 ∧ State.reset.oCount = 0#32 ∧
  State.reset.config = Config.lengthCheck ∧
  configWord State.reset.config = (if Config.lengthCheck = .strict then 1#32 else 0#32) ∧
  State.reset.capacity = Config.bufBytes ∧ readReg State.reset .cmd = 0#32 ∧
  State.reset.cmdl = 0#32 ∧ ∀ a, State.reset.ibuf.read a = none

/-! ### The type-tag decoder -/

/-- spec/40_tag_decoder.md R58: which bytes are letters. -/
def Obligations.LetterIsAsciiLetter : Prop :=
  ∀ b : Byte, letter b = true ↔ (65 ≤ b.toNat ∧ b.toNat ≤ 90) ∨ (97 ≤ b.toNat ∧ b.toNat ≤ 122)

/-- spec/10_state.md R17 and spec/40_tag_decoder.md R59 to R64: each bit of TAGQ, for every value of TAG; the reserved
bits read 0; after reset, with TAG = 0, TAGQ is 0x0000000E. -/
def Obligations.TagqBitsFollowTag : Prop :=
  (∀ r : Word,
    ((tagqOf r).getLsbD 0 = true ↔ AllLetters r) ∧
    ((tagqOf r).getLsbD 1 = true ↔ r.getLsbD 29 = false) ∧
    ((tagqOf r).getLsbD 2 = true ↔ r.getLsbD 21 = false) ∧
    ((tagqOf r).getLsbD 3 = true ↔ r.getLsbD 13 = false) ∧
    ((tagqOf r).getLsbD 4 = true ↔ r.getLsbD 5 = true) ∧
    ((tagqOf r).getLsbD 5 = true ↔ AllLetters r ∧ r.getLsbD 13 = false) ∧
    ∀ n, 6 ≤ n → (tagqOf r).getLsbD n = false) ∧
  tagqOf 0#32 = 0x0000000E#32

/-- spec/40_tag_decoder.md R67: TAG_LOAD of four letters loads TAG; otherwise INVALID_BYTE with the first offending byte
in ERR_INFO0[7:0] and its index in ERR_INFO0[9:8], and nothing else changes. With the rule's value of TAGQ for "RuSt". -/
def Obligations.TagLoadLoadsOrReportsFirstBadByte : Prop :=
  tagqOf 0x52755374#32 = 0x0000003B#32 ∧
  ∀ s : State,
    (AllLetters s.tagin →
      exec .tagLoad s = .next { s with tag := s.tagin, err := 0#4, errInfo0 := 0#32, errInfo1 := 0#32 }) ∧
    ∀ k, FirstNonLetter s.tagin k →
      exec .tagLoad s = .next { s with
        err := 2#4, errInfo1 := 0#32,
        errInfo0 := zext32 (tagByte s.tagin k) ||| (BitVec.ofNat 32 k <<< 8) }

/-- spec/40_tag_decoder.md R68: TAG_LOAD_STR with a count other than 4 gives INVALID_LENGTH, whatever IBUF holds; with 4 it
loads the big-endian word of IBUF[0:4), or reports the first byte that is not a letter. A byte never written is any byte
(spec/20_memory.md R39). With the rule's value of TAGQ for "Rust". -/
def Obligations.TagLoadStrLoadsOrReports : Prop :=
  tagqOf 0x52757374#32 = 0x00000013#32 ∧
  ∀ s : State,
    (s.argLen ≠ 4#32 →
      exec .tagLoadStr s = .next { s with err := 3#4, errInfo0 := s.argLen, errInfo1 := 0#32 }) ∧
    (s.argLen = 4#32 → ∃ b0 b1 b2 b3 k, ReadsAs s.ibuf 0 4 [b0, b1, b2, b3] ∧
      (AllLetters (b0 ++ b1 ++ b2 ++ b3) →
        exec .tagLoadStr s = .next { s with tag := b0 ++ b1 ++ b2 ++ b3, err := 0#4, errInfo0 := 0#32,
                                            errInfo1 := 0#32, draws := k }) ∧
      ∀ j, FirstNonLetter (b0 ++ b1 ++ b2 ++ b3) j →
        exec .tagLoadStr s = .next { s with
          err := 2#4, errInfo1 := 0#32, draws := k,
          errInfo0 := zext32 (tagByte (b0 ++ b1 ++ b2 ++ b3) j) ||| (BitVec.ofNat 32 j <<< 8) })

/-- spec/40_tag_decoder.md R68, its success on written bytes: with ARG_LEN = 4 and four letters written to IBUF[0:4),
TAG_LOAD_STR loads them, and nothing is left open. -/
def Obligations.TagLoadStrLoadsWrittenString : Prop :=
  ∀ (s : State) (b0 b1 b2 b3 : Byte), s.argLen = 4#32 → s.ibuf.bytes 0 4 = some [b0, b1, b2, b3] →
    IsLetter b0 → IsLetter b1 → IsLetter b2 → IsLetter b3 →
    exec .tagLoadStr s = .next { s with tag := b0 ++ b1 ++ b2 ++ b3, err := 0#4, errInfo0 := 0#32, errInfo1 := 0#32 }

/-- spec/40_tag_decoder.md R69: TAG_FROM_CHUNK copies C_TYPE to TAG when a chunk is held, and gives NO_CHUNK otherwise. With
the rule's value of TAGQ for "IEND". -/
def Obligations.TagFromChunkCopiesType : Prop :=
  tagqOf 0x49454E44#32 = 0x0000002F#32 ∧
  ∀ s : State,
    (s.chunkValid = true →
      exec .tagFromChunk s = .next { s with tag := s.cType, err := 0#4, errInfo0 := 0#32, errInfo1 := 0#32 }) ∧
    (s.chunkValid = false →
      exec .tagFromChunk s = .next { s with err := 11#4, errInfo0 := 0#32, errInfo1 := 0#32 })

/-- The frame of TAG_LOAD, TAG_LOAD_STR and TAG_FROM_CHUNK (spec/30_encoding.md R51, spec/60_exceptions.md R91): they
change TAG and the result registers and nothing else; every byte of the three buffers reads as before. -/
def Obligations.TagCommandsFrame : Prop :=
  ∀ (i : Instr) (s t : State), i ∈ [Instr.tagLoad, Instr.tagLoadStr, Instr.tagFromChunk] → exec i s = .next t →
    t = { s with tag := t.tag, err := t.err, errInfo0 := t.errInfo0, errInfo1 := t.errInfo1, draws := t.draws } ∧
    ∀ a, t.ibuf.read a = s.ibuf.read a ∧ t.pbuf.read a = s.pbuf.read a ∧ t.obuf.read a = s.obuf.read a

/-! ### The CRC generator -/

/-- spec/95_test_vectors.md section 2.2: rows of the crc_step and crc32 tables, the check value among them. The function
itself is partly general knowledge (log entry 11). -/
def Obligations.CrcMatchesKnownValues : Prop :=
  crcStep 0x00000000#32 0x01#8 = 0x77073096#32 ∧ crcStep 0xFFFFFFFF#32 0x31#8 = 0x7C231048#32 ∧
  crc32 [] = 0#32 ∧ crc32 [0x61#8] = 0xE8B7BE43#32 ∧ crc32 [0x49#8, 0x45#8, 0x4E#8, 0x44#8] = 0xAE426082#32 ∧
  crc32 [0x31#8, 0x32#8, 0x33#8, 0x34#8, 0x35#8, 0x36#8, 0x37#8, 0x38#8, 0x39#8] = 0xCBF43926#32

/-- spec/41_crc_generator.md section 3, marked there as derived: folding over a concatenation. -/
def Obligations.CrcFoldOfAppend : Prop :=
  ∀ (c : Word) (x y : List Byte), crcFold c (x ++ y) = crcFold (crcFold c x) y

/-- spec/41_crc_generator.md section 3, "detects every single-bit error" (general knowledge there), in the stronger form
that a change of any one byte changes the CRC. -/
def Obligations.OneByteChangeChangesCrc : Prop :=
  ∀ (x y : List Byte) (b c : Byte), b ≠ c → crc32 (x ++ b :: y) ≠ crc32 (x ++ c :: y)

/-- spec/41_crc_generator.md R74: CRC_INIT sets CRC_STATE to all ones; CRC_VALUE then reads 0. -/
def Obligations.CrcInitSetsAllOnes : Prop :=
  ∀ s : State, ∃ t, exec .crcInit s = .next t ∧ crcValue t = 0#32 ∧
    t = { s with crcState := 0xFFFFFFFF#32, err := 0#4, errInfo0 := 0#32, errInfo1 := 0#32 }

/-- spec/41_crc_generator.md R75: CRC_UPDATE folds IBUF[0:n) into CRC_STATE, or gives RANGE when `n > P_BUF_BYTES`. A byte
never written is any byte. With the rule's example: from all ones, "123456789" gives CRC_VALUE 0xCBF43926. -/
def Obligations.CrcUpdateFoldsInput : Prop :=
  crcFold 0xFFFFFFFF#32 [0x31#8, 0x32#8, 0x33#8, 0x34#8, 0x35#8, 0x36#8, 0x37#8, 0x38#8, 0x39#8] ^^^ 0xFFFFFFFF#32 =
    0xCBF43926#32 ∧
  ∀ s : State,
    (s.capacity.toNat < s.argLen.toNat →
      exec .crcUpdate s = .next { s with err := 9#4, errInfo0 := s.argLen, errInfo1 := s.capacity }) ∧
    (s.argLen.toNat ≤ s.capacity.toNat → ∃ bs k, ReadsAs s.ibuf 0 s.argLen.toNat bs ∧
      exec .crcUpdate s = .next { s with crcState := crcFold s.crcState bs, err := 0#4, errInfo0 := 0#32,
                                         errInfo1 := 0#32, draws := k })

/-- spec/41_crc_generator.md section 3, marked there as derived: CRC_INIT, then CRC_UPDATE over `x`, then CRC_UPDATE over
`y` leaves CRC_VALUE = crc32(x ++ y), whatever the host does to the rest of the block between the commands. -/
def Obligations.CrcOfPiecesIsCrcOfWhole : Prop :=
  ∀ (s t u : State) (x y : List Byte),
    (∃ s', exec .crcInit s = .next s' ∧ s'.crcState = t.crcState) →
    t.argLen.toNat ≤ t.capacity.toNat → t.ibuf.bytes 0 t.argLen.toNat = some x →
    u.argLen.toNat ≤ u.capacity.toNat → u.ibuf.bytes 0 u.argLen.toNat = some y →
    (∃ t', exec .crcUpdate t = .next t' ∧ t'.crcState = u.crcState) →
    ∃ u', exec .crcUpdate u = .next u' ∧ u'.err = 0#4 ∧ crcValue u' = crc32 (x ++ y)

/-- The frame of CRC_INIT and CRC_UPDATE (spec/30_encoding.md R51, spec/60_exceptions.md R91). -/
def Obligations.CrcCommandsFrame : Prop :=
  ∀ (i : Instr) (s t : State), i ∈ [Instr.crcInit, Instr.crcUpdate] → exec i s = .next t →
    t = { s with crcState := t.crcState, err := t.err, errInfo0 := t.errInfo0, errInfo1 := t.errInfo1,
                 draws := t.draws } ∧
    ∀ a, t.ibuf.read a = s.ibuf.read a ∧ t.pbuf.read a = s.pbuf.read a ∧ t.obuf.read a = s.obuf.read a

/-! ### The frame unit -/

/-- spec/42_chunk_frame.md R81: CHUNK_BUILD's checks in order, and the record it builds. LENGTH_OVERFLOW cannot occur. -/
def Obligations.ChunkBuildBuildsRecord : Prop :=
  ∀ s : State,
    (s.capacity.toNat < s.argLen.toNat →
      exec .chunkBuild s = .next { s with err := 9#4, errInfo0 := s.argLen, errInfo1 := s.capacity }) ∧
    (s.argLen.toNat ≤ s.capacity.toNat → ¬ AllLetters s.tag →
      exec .chunkBuild s = .next { s with err := 10#4, errInfo0 := s.tag, errInfo1 := 0#32 }) ∧
    (s.argLen.toNat ≤ s.capacity.toNat → AllLetters s.tag →
      ∃ p t, ReadsAs s.ibuf 0 s.argLen.toNat p ∧ exec .chunkBuild s = .next t ∧
        t = { s with cLength := s.argLen, cType := s.tag, cCrc := crc32 (bebytes s.tag ++ p), cPcount := s.argLen,
                     pbuf := t.pbuf, chunkValid := true, err := 0#4, errInfo0 := 0#32, errInfo1 := 0#32,
                     draws := t.draws } ∧
        (∀ i, i < s.argLen.toNat → t.pbuf.read i = p[i]?) ∧
        ∀ a, s.argLen.toNat ≤ a → t.pbuf.read a = s.pbuf.read a)

/-- spec/42_chunk_frame.md R82: CHUNK_DECODE's checks in the order of its steps, and the record it writes. `f` is the frame
read, `IBUF[0:N)`. -/
def Obligations.ChunkDecodeValidatesFrame : Prop :=
  ∀ s : State,
    (s.capacity.toNat < s.argLen.toNat →
      exec .chunkDecode s = .next { s with err := 9#4, errInfo0 := s.argLen, errInfo1 := s.capacity }) ∧
    (s.argLen.toNat ≤ s.capacity.toNat → s.argLen.toNat < 12 →
      exec .chunkDecode s = .next { s with err := 1#4, errInfo0 := s.argLen, errInfo1 := 0#32 }) ∧
    (s.argLen.toNat ≤ s.capacity.toNat → 12 ≤ s.argLen.toNat →
      ∃ f p tag len crc k, ReadsAs s.ibuf 0 s.argLen.toNat f ∧
        len = wordOf f 0 ∧ tag = wordOf f 4 ∧ crc = wordOf f (s.argLen.toNat - 4) ∧
        p = (f.drop 8).take (s.argLen.toNat - 12) ∧
        (∀ j, FirstNonLetter tag j →
          exec .chunkDecode s = .next { s with
            err := 2#4, errInfo1 := 0#32, draws := k,
            errInfo0 := zext32 (tagByte tag j) ||| (BitVec.ofNat 32 j <<< 8) }) ∧
        (AllLetters tag → s.config = .strict → len ≠ s.argLen - 12#32 →
          exec .chunkDecode s = .next { s with err := 6#4, errInfo0 := len, errInfo1 := s.argLen - 12#32,
                                               draws := k }) ∧
        (AllLetters tag → ¬ (s.config = .strict ∧ len ≠ s.argLen - 12#32) → crc32 (bebytes tag ++ p) ≠ crc →
          exec .chunkDecode s = .next { s with err := 4#4, errInfo0 := crc32 (bebytes tag ++ p), errInfo1 := crc,
                                               draws := k }) ∧
        (AllLetters tag → ¬ (s.config = .strict ∧ len ≠ s.argLen - 12#32) → crc32 (bebytes tag ++ p) = crc →
          ∃ t, exec .chunkDecode s = .next t ∧
            t = { s with cLength := len, cType := tag, cCrc := crc, cPcount := s.argLen - 12#32, pbuf := t.pbuf,
                         chunkValid := true, err := 0#4, errInfo0 := 0#32, errInfo1 := 0#32, draws := k } ∧
            (∀ i, i < s.argLen.toNat - 12 → t.pbuf.read i = p[i]?) ∧
            ∀ a, s.argLen.toNat - 12 ≤ a → t.pbuf.read a = s.pbuf.read a))

/-- spec/42_chunk_frame.md R82, its success on written bytes, and R79's layout: a frame `bebytes(L) ++ tag ++ p ++
bebytes(CRC)` in IBUF[0:N), of four letters, with the CRC of its tag and payload and, under STRICT, with `L = N - 12`, is
accepted, whatever `L` is under TOLERATE. -/
def Obligations.ChunkDecodeAcceptsWrittenFrame : Prop :=
  ∀ (s : State) (len tag : Word) (p : List Byte), s.argLen.toNat = 12 + p.length →
    s.argLen.toNat ≤ s.capacity.toNat → AllLetters tag → (s.config = .strict → len.toNat = p.length) →
    s.ibuf.bytes 0 s.argLen.toNat =
      some (bebytes len ++ bebytes tag ++ p ++ bebytes (crc32 (bebytes tag ++ p))) →
    ∃ t, exec .chunkDecode s = .next t ∧
      t = { s with cLength := len, cType := tag, cCrc := crc32 (bebytes tag ++ p), cPcount := s.argLen - 12#32,
                   pbuf := t.pbuf, chunkValid := true, err := 0#4, errInfo0 := 0#32, errInfo1 := 0#32,
                   draws := t.draws } ∧
      (∀ i, i < p.length → t.pbuf.read i = p[i]?) ∧ ∀ a, p.length ≤ a → t.pbuf.read a = s.pbuf.read a

/-- spec/42_chunk_frame.md R84: CHUNK_ENCODE writes length, type, payload and CRC, big-endian, to OBUF[0:12+m) and the size
to O_COUNT, `m` being C_PCOUNT; with no chunk held it gives NO_CHUNK. -/
def Obligations.ChunkEncodeSerializesRecord : Prop :=
  ∀ s : State,
    (s.chunkValid = false →
      exec .chunkEncode s = .next { s with err := 11#4, errInfo0 := 0#32, errInfo1 := 0#32 }) ∧
    (s.chunkValid = true → ∃ p out t, ReadsAs s.pbuf 0 s.cPcount.toNat p ∧
      out = bebytes s.cLength ++ bebytes s.cType ++ p ++ bebytes s.cCrc ∧ exec .chunkEncode s = .next t ∧
      t = { s with obuf := t.obuf, oCount := 12#32 + s.cPcount, err := 0#4, errInfo0 := 0#32, errInfo1 := 0#32,
                   draws := t.draws } ∧
      (∀ i, i < 12 + s.cPcount.toNat → t.obuf.read i = out[i]?) ∧
      ∀ a, 12 + s.cPcount.toNat ≤ a → t.obuf.read a = s.obuf.read a)

/-- The frame of CHUNK_BUILD and CHUNK_DECODE (spec/30_encoding.md R51, spec/60_exceptions.md R91): only the chunk
record, CHUNK_VALID and the result registers change; PBUF changes below the payload count the command stores and nowhere
else; IBUF and OBUF do not change. -/
def Obligations.ChunkWritersFrame : Prop :=
  (∀ s t : State, exec .chunkBuild s = .next t →
    t = { s with cLength := t.cLength, cType := t.cType, cCrc := t.cCrc, cPcount := t.cPcount, pbuf := t.pbuf,
                 chunkValid := t.chunkValid, err := t.err, errInfo0 := t.errInfo0, errInfo1 := t.errInfo1,
                 draws := t.draws } ∧
    (∀ a, t.ibuf.read a = s.ibuf.read a ∧ t.obuf.read a = s.obuf.read a) ∧
    ∀ a, (opCount s).toNat ≤ a → t.pbuf.read a = s.pbuf.read a) ∧
  ∀ s t : State, exec .chunkDecode s = .next t →
    t = { s with cLength := t.cLength, cType := t.cType, cCrc := t.cCrc, cPcount := t.cPcount, pbuf := t.pbuf,
                 chunkValid := t.chunkValid, err := t.err, errInfo0 := t.errInfo0, errInfo1 := t.errInfo1,
                 draws := t.draws } ∧
    (∀ a, t.ibuf.read a = s.ibuf.read a ∧ t.obuf.read a = s.obuf.read a) ∧
    ∀ a, (opCount s).toNat - 12 ≤ a → t.pbuf.read a = s.pbuf.read a

/-- The frame of CHUNK_ENCODE: only OBUF below `12 + C_PCOUNT`, O_COUNT and the result registers change. -/
def Obligations.ChunkEncodeFrame : Prop :=
  ∀ s t : State, exec .chunkEncode s = .next t →
    t = { s with obuf := t.obuf, oCount := t.oCount, err := t.err, errInfo0 := t.errInfo0, errInfo1 := t.errInfo1,
                 draws := t.draws } ∧
    (∀ a, t.ibuf.read a = s.ibuf.read a ∧ t.pbuf.read a = s.pbuf.read a) ∧
    ∀ a, 12 + s.cPcount.toNat ≤ a → t.obuf.read a = s.obuf.read a

/-! ### Results -/

/-- spec/60_exceptions.md R91: a completion that raises writes ERR, ERR_INFO0 and ERR_INFO1, clears BUSY, and changes no
other state of the block. (The count of free values is the model's own.) -/
def Obligations.FailedCommandChangesOnlyResult : Prop :=
  ∀ s t : State, EngineIsNext s → step s = .next t → t.err ≠ 0#4 →
    t = { s with err := t.err, errInfo0 := t.errInfo0, errInfo1 := t.errInfo1, busy := false, draws := t.draws,
                 schedule := s.schedule.tail }

/-- spec/60_exceptions.md R92: a completion that succeeds leaves ERR = 0, ERR_INFO0 = 0 and ERR_INFO1 = 0. -/
def Obligations.SuccessClearsErrorInfo : Prop :=
  ∀ s t : State, EngineIsNext s → step s = .next t → t.err = 0#4 → t.errInfo0 = 0#32 ∧ t.errInfo1 = 0#32

/-! ### Invariants and whole-machine rules -/

/-- The block's invariant (Safety.lean: spec/10_state.md R30, R31, spec/60_exceptions.md R101, spec/20_memory.md R35 and the
model's canonical buffers) is kept by every step. -/
def Obligations.EveryStepKeepsBlockInvariant : Prop :=
  ∀ s t : State, BlockInv s → step s = .next t → BlockInv t

/-- The block's invariant holds at reset, whatever the implementation's parameters are. -/
def Obligations.BlockInvariantHoldsAtReset : Prop := BlockInv State.reset

/-- spec/60_exceptions.md R101 (derived there): ERR never takes a value that is never written. -/
def Obligations.UnusedErrValuesNeverWritten : Prop :=
  ∀ s t : State, ErrOk s → step s = .next t → ErrOk t

/-- spec/10_state.md R31, and the first clause of R30 (both derived there): TAG stays 0 or constructible, and the type of
a held chunk stays constructible. -/
def Obligations.TagsStayConstructible : Prop :=
  ∀ s t : State, TagsOk s → step s = .next t → TagsOk t

/-- The model's buffers keep their canonical form: offsets strictly rising (log entry 6). -/
def Obligations.BuffersStayCanonical : Prop :=
  ∀ s t : State, s.ibuf.wf = true → s.pbuf.wf = true → s.obuf.wf = true → step s = .next t →
    t.ibuf.wf = true ∧ t.pbuf.wf = true ∧ t.obuf.wf = true

/-- spec/70_reset_and_hazards.md R104, spec/10_state.md R13: only reset clears CHUNK_VALID. -/
def Obligations.OnlyResetClearsChunkValid : Prop :=
  ∀ s t : State, step s = .next t → s.chunkValid = true → s.schedule.head? ≠ some .reset → t.chunkValid = true

/-- spec/10_state.md R16, R20, section 8, R26: who writes TAG, CRC_STATE, the chunk record, and OBUF and O_COUNT: outside a
reset, only a completion that succeeds, of the commands named. -/
def Obligations.OnlyNamedCommandsWriteResults : Prop :=
  ∀ s t : State, step s = .next t → s.schedule.head? ≠ some .reset →
    (t.tag ≠ s.tag → EngineIsNext s ∧ t.err = 0#4 ∧
      (s.cmdl = 0x01#32 ∨ s.cmdl = 0x02#32 ∨ s.cmdl = 0x03#32)) ∧
    (t.crcState ≠ s.crcState → EngineIsNext s ∧ t.err = 0#4 ∧ (s.cmdl = 0x10#32 ∨ s.cmdl = 0x11#32)) ∧
    (t.cLength ≠ s.cLength ∨ t.cType ≠ s.cType ∨ t.cCrc ≠ s.cCrc ∨ t.cPcount ≠ s.cPcount ∨ t.pbuf ≠ s.pbuf →
      EngineIsNext s ∧ t.err = 0#4 ∧ (s.cmdl = 0x20#32 ∨ s.cmdl = 0x21#32)) ∧
    (t.obuf ≠ s.obuf ∨ t.oCount ≠ s.oCount → EngineIsNext s ∧ t.err = 0#4 ∧ s.cmdl = 0x22#32)

/-- spec/10_state.md R14, R15 ("No command writes ARG_LEN", "No command writes TAGIN"), spec/20_memory.md R38: no
completion changes an operand register, IBUF or the command latch. -/
def Obligations.CommandsLeaveOperandsAlone : Prop :=
  ∀ s t : State, EngineIsNext s → step s = .next t →
    t.argLen = s.argLen ∧ t.tagin = s.tagin ∧ t.ibuf = s.ibuf ∧ t.cmdl = s.cmdl

/-- spec/10_state.md R27, R28: CONFIG and CAPACITY are constants: no step, reset included, changes them. -/
def Obligations.ParametersNeverChange : Prop :=
  ∀ s t : State, step s = .next t → t.config = s.config ∧ t.capacity = s.capacity

/-! ### Laws of the frame unit -/

/-- spec/42_chunk_frame.md section 4, round trip (derived there): build, encode, copy OBUF to IBUF, decode. The decode
succeeds under both values of P_LENGTH_CHECK and gives back the length, type, CRC, count and payload of the build. -/
def Obligations.BuildEncodeDecodeRoundTrip : Prop :=
  ∀ (s : State) (p : List Byte), ParamsOk s → AllLetters s.tag → s.argLen.toNat + 12 ≤ s.capacity.toNat →
    s.ibuf.bytes 0 s.argLen.toNat = some p →
    ∃ t u, exec .chunkBuild s = .next t ∧ exec .chunkEncode t = .next u ∧
      ∀ m : Memory, (∀ i, i < u.oCount.toNat → m.read i = u.obuf.read i) →
        ∃ v, exec .chunkDecode { u with ibuf := m, argLen := u.oCount } = .next v ∧ v.err = 0#4 ∧
          v.cLength = t.cLength ∧ v.cType = t.cType ∧ v.cCrc = t.cCrc ∧ v.cPcount = t.cPcount ∧
          v.pbuf.bytes 0 s.argLen.toNat = some p ∧ t.pbuf.bytes 0 s.argLen.toNat = some p

/-- spec/42_chunk_frame.md section 4, decode then encode (derived there): after CHUNK_DECODE accepts a frame `f` of `N`
bytes, CHUNK_ENCODE writes OBUF[0:N) = `f` and O_COUNT = `N`, also when the declared length is wrong under TOLERATE. -/
def Obligations.DecodeThenEncodeRewritesFrame : Prop :=
  ∀ (s t : State) (f : List Byte), ParamsOk s → s.ibuf.bytes 0 s.argLen.toNat = some f →
    exec .chunkDecode s = .next t → t.err = 0#4 →
    ∃ u, exec .chunkEncode t = .next u ∧ u.err = 0#4 ∧ u.oCount = s.argLen ∧
      u.obuf.bytes 0 s.argLen.toNat = some f

/-- spec/42_chunk_frame.md section 4, tamper outcomes (derived there, with the single-bit detection of general knowledge):
one flipped bit of an accepted frame, by the offset of its byte. -/
def Obligations.SingleBitTamperOutcomes : Prop :=
  ∀ (s t : State) (f : List Byte) (i j : Nat) (b : Byte), s.ibuf.bytes 0 s.argLen.toNat = some f →
    exec .chunkDecode s = .next t → t.err = 0#4 → j < 8 → f[i]? = some b →
    ∃ u, exec .chunkDecode { s with ibuf := s.ibuf.write i (b ^^^ (1#8 <<< j)) } = .next u ∧
      (i < 4 → s.config = .tolerate → u.err = 0#4 ∧ u.cLength ≠ t.cLength) ∧
      (i < 4 → s.config = .strict → u.err = 6#4) ∧
      (4 ≤ i → i < 8 → ¬ IsLetter (b ^^^ (1#8 <<< j)) →
        u.err = 2#4 ∧ u.errInfo0 = zext32 (b ^^^ (1#8 <<< j)) ||| (BitVec.ofNat 32 (i - 4) <<< 8)) ∧
      (4 ≤ i → i < 8 → IsLetter (b ^^^ (1#8 <<< j)) → u.err = 4#4) ∧
      (8 ≤ i → u.err = 4#4)
end

