-- ==== Sys2Proof/Laws/Memory.lean ====
section
/-!
SUPPORT. The laws of a buffer: a read after a write, what a write leaves alone, and that every operation keeps the
canonical form.
-/
namespace Sys2Proof.Machine

/-! ### One byte -/

theorem read_write_same (m : Memory) (a : Nat) (b : Byte) : (m.write a b).read a = some b := by
  induction m with
  | nil => simp [Memory.write, Memory.read]
  | cons c m ih =>
    obtain ⟨k, v⟩ := c
    unfold Memory.write
    split
    · simp [Memory.read]
    · split
      · simp [Memory.read]
      · next h₁ h₂ => simp [Memory.read, Ne.symm h₂, ih]

theorem read_write_other (m : Memory) (a x : Nat) (b : Byte) (h : x ≠ a) : (m.write a b).read x = m.read x := by
  induction m with
  | nil => simp [Memory.write, Memory.read, Ne.symm h]
  | cons c m ih =>
    obtain ⟨k, v⟩ := c
    unfold Memory.write
    split
    · simp [Memory.read, Ne.symm h]
    · split
      · next h₁ h₂ => subst h₂; simp [Memory.read, Ne.symm h]
      · simp [Memory.read, ih]

theorem read_write (m : Memory) (a x : Nat) (b : Byte) :
    (m.write a b).read x = if x = a then some b else m.read x := by
  split
  · next h => subst h; exact read_write_same m x b
  · next h => exact read_write_other m a x b h

/-! ### The canonical form -/

theorem risingFrom_mono {lo lo' : Nat} {m : Memory} (h : lo' ≤ lo) (hm : m.risingFrom lo = true) :
    m.risingFrom lo' = true := by
  cases m with
  | nil => rfl
  | cons c m =>
    obtain ⟨k, v⟩ := c
    simp only [Memory.risingFrom, Bool.and_eq_true, decide_eq_true_eq] at hm ⊢
    exact ⟨by omega, hm.2⟩

theorem risingFrom_write {lo : Nat} {m : Memory} (a : Nat) (b : Byte) (h : lo ≤ a) (hm : m.risingFrom lo = true) :
    (m.write a b).risingFrom lo = true := by
  induction m generalizing lo with
  | nil => simpa [Memory.write, Memory.risingFrom] using h
  | cons c m ih =>
    obtain ⟨k, v⟩ := c
    simp only [Memory.risingFrom, Bool.and_eq_true, decide_eq_true_eq] at hm
    unfold Memory.write
    split
    · simp only [Memory.risingFrom, Bool.and_eq_true, decide_eq_true_eq]
      exact ⟨h, by omega, hm.2⟩
    · split
      · next h₁ h₂ => subst h₂; simpa [Memory.risingFrom] using ⟨h, hm.2⟩
      · simp only [Memory.risingFrom, Bool.and_eq_true, decide_eq_true_eq]
        exact ⟨hm.1, ih (by omega) hm.2⟩

theorem wf_write {m : Memory} (a : Nat) (b : Byte) (hm : m.wf = true) : (m.write a b).wf = true :=
  risingFrom_write a b (Nat.zero_le a) hm

theorem below_write {m : Memory} {size : Nat} (a : Nat) (b : Byte) (h : a < size) (hm : m.below size = true) :
    (m.write a b).below size = true := by
  induction m with
  | nil => simpa [Memory.write, Memory.below] using h
  | cons c m ih =>
    obtain ⟨k, v⟩ := c
    simp only [Memory.below, List.all_cons, Bool.and_eq_true, decide_eq_true_eq] at hm ih
    unfold Memory.write
    split
    · simpa [Memory.below] using ⟨h, hm.1, by simpa using hm.2⟩
    · split
      · simpa [Memory.below] using ⟨h, by simpa using hm.2⟩
      · simp only [Memory.below, List.all_cons, Bool.and_eq_true, decide_eq_true_eq]
        exact ⟨hm.1, ih hm.2⟩

/-! ### A byte sequence -/

theorem read_writeBytes_outside (m : Memory) (a x : Nat) (bs : List Byte) (h : x < a ∨ a + bs.length ≤ x) :
    (m.writeBytes a bs).read x = m.read x := by
  induction bs generalizing m a with
  | nil => rfl
  | cons b bs ih =>
    simp only [List.length_cons] at h
    rw [Memory.writeBytes, ih (m.write a b) (a + 1) (by omega), read_write_other m a x b (by omega)]

theorem read_writeBytes_inside (m : Memory) (a i : Nat) (bs : List Byte) (h : i < bs.length) :
    (m.writeBytes a bs).read (a + i) = bs[i]? := by
  induction bs generalizing m a i with
  | nil => simp at h
  | cons b bs ih =>
    cases i with
    | zero =>
      rw [Memory.writeBytes, read_writeBytes_outside _ _ _ _ (by omega)]
      simpa using read_write_same m a b
    | succ i =>
      rw [Memory.writeBytes, show a + (i + 1) = (a + 1) + i by omega, ih _ _ _ (by simpa using h)]
      simp

theorem wf_writeBytes {m : Memory} (a : Nat) (bs : List Byte) (hm : m.wf = true) : (m.writeBytes a bs).wf = true := by
  induction bs generalizing m a with
  | nil => exact hm
  | cons b bs ih => exact ih (a + 1) (wf_write a b hm)

theorem below_writeBytes {m : Memory} {size : Nat} (a : Nat) (bs : List Byte) (h : a + bs.length ≤ size)
    (hm : m.below size = true) : (m.writeBytes a bs).below size = true := by
  induction bs generalizing m a with
  | nil => exact hm
  | cons b bs ih =>
    simp only [List.length_cons] at h
    exact ih (a + 1) (by omega) (below_write a b (by omega) hm)

/-- `Memory.bytes` answers exactly when every byte of the range has been written, with those bytes. -/
theorem bytes_eq_some (m : Memory) (a n : Nat) (bs : List Byte) :
    m.bytes a n = some bs ↔ bs.length = n ∧ ∀ i, i < n → m.read (a + i) = bs[i]? := by
  induction n generalizing a bs with
  | zero => cases bs <;> simp [Memory.bytes]
  | succ n ih =>
    unfold Memory.bytes
    constructor
    · intro h
      split at h
      · next b rest hb hr =>
        obtain rfl := by simpa using h
        obtain ⟨hl, hi⟩ := (ih (a + 1) rest).1 hr
        refine ⟨by simp [hl], fun i hn => ?_⟩
        cases i with
        | zero => simpa using hb
        | succ i =>
          rw [show a + (i + 1) = (a + 1) + i by omega, hi i (by omega)]
          simp
      · simp at h
    · rintro ⟨hl, hi⟩
      cases bs with
      | nil => simp at hl
      | cons b rest =>
        have hb : m.read a = some b := by simpa using hi 0 (by omega)
        have hr : m.bytes (a + 1) n = some rest := by
          refine (ih (a + 1) rest).2 ⟨by simpa using hl, fun i hn => ?_⟩
          rw [show (a + 1) + i = a + (i + 1) by omega, hi (i + 1) (by omega)]
          simp
        simp [hb, hr]

/-- What has just been written can be read back whole. -/
theorem bytes_writeBytes (m : Memory) (a : Nat) (bs : List Byte) :
    (m.writeBytes a bs).bytes a bs.length = some bs :=
  (bytes_eq_some _ _ _ _).2 ⟨rfl, fun i hi => read_writeBytes_inside m a i bs hi⟩

end Sys2Proof.Machine
end

