-- ==== Sys2Proof/Laws/State.lean ====
section
/-!
SUPPORT. One lemma per field of State per named update of Machine/Ops.lean, so that no proof unfolds a record update.
-/
namespace Sys2Proof.Machine

variable (s : State)

/-! ### report -/

@[simp] theorem report_err (c : BitVec 4) (i j : Word) : (report c i j s).err = c := rfl
@[simp] theorem report_busy (c : BitVec 4) (i j : Word) : (report c i j s).busy = s.busy := rfl
@[simp] theorem report_chunkValid (c : BitVec 4) (i j : Word) : (report c i j s).chunkValid = s.chunkValid := rfl
@[simp] theorem report_argLen (c : BitVec 4) (i j : Word) : (report c i j s).argLen = s.argLen := rfl
@[simp] theorem report_tagin (c : BitVec 4) (i j : Word) : (report c i j s).tagin = s.tagin := rfl
@[simp] theorem report_tag (c : BitVec 4) (i j : Word) : (report c i j s).tag = s.tag := rfl
@[simp] theorem report_errInfo0 (c : BitVec 4) (i j : Word) : (report c i j s).errInfo0 = i := rfl
@[simp] theorem report_errInfo1 (c : BitVec 4) (i j : Word) : (report c i j s).errInfo1 = j := rfl
@[simp] theorem report_crcState (c : BitVec 4) (i j : Word) : (report c i j s).crcState = s.crcState := rfl
@[simp] theorem report_cLength (c : BitVec 4) (i j : Word) : (report c i j s).cLength = s.cLength := rfl
@[simp] theorem report_cType (c : BitVec 4) (i j : Word) : (report c i j s).cType = s.cType := rfl
@[simp] theorem report_cCrc (c : BitVec 4) (i j : Word) : (report c i j s).cCrc = s.cCrc := rfl
@[simp] theorem report_cPcount (c : BitVec 4) (i j : Word) : (report c i j s).cPcount = s.cPcount := rfl
@[simp] theorem report_oCount (c : BitVec 4) (i j : Word) : (report c i j s).oCount = s.oCount := rfl
@[simp] theorem report_config (c : BitVec 4) (i j : Word) : (report c i j s).config = s.config := rfl
@[simp] theorem report_capacity (c : BitVec 4) (i j : Word) : (report c i j s).capacity = s.capacity := rfl
@[simp] theorem report_cmdl (c : BitVec 4) (i j : Word) : (report c i j s).cmdl = s.cmdl := rfl
@[simp] theorem report_ibuf (c : BitVec 4) (i j : Word) : (report c i j s).ibuf = s.ibuf := rfl
@[simp] theorem report_pbuf (c : BitVec 4) (i j : Word) : (report c i j s).pbuf = s.pbuf := rfl
@[simp] theorem report_obuf (c : BitVec 4) (i j : Word) : (report c i j s).obuf = s.obuf := rfl
@[simp] theorem report_faultMark (c : BitVec 4) (i j : Word) : (report c i j s).faultMark = s.faultMark := rfl
@[simp] theorem report_unread (c : BitVec 4) (i j : Word) : (report c i j s).unread = s.unread := rfl
@[simp] theorem report_earlyMark (c : BitVec 4) (i j : Word) : (report c i j s).earlyMark = s.earlyMark := rfl
@[simp] theorem report_draws (c : BitVec 4) (i j : Word) : (report c i j s).draws = s.draws := rfl
@[simp] theorem report_response (c : BitVec 4) (i j : Word) : (report c i j s).response = s.response := rfl
@[simp] theorem report_schedule (c : BitVec 4) (i j : Word) : (report c i j s).schedule = s.schedule := rfl

/-! ### setDraws -/

@[simp] theorem setDraws_err (k : Nat) : (setDraws k s).err = s.err := rfl
@[simp] theorem setDraws_busy (k : Nat) : (setDraws k s).busy = s.busy := rfl
@[simp] theorem setDraws_chunkValid (k : Nat) : (setDraws k s).chunkValid = s.chunkValid := rfl
@[simp] theorem setDraws_argLen (k : Nat) : (setDraws k s).argLen = s.argLen := rfl
@[simp] theorem setDraws_tagin (k : Nat) : (setDraws k s).tagin = s.tagin := rfl
@[simp] theorem setDraws_tag (k : Nat) : (setDraws k s).tag = s.tag := rfl
@[simp] theorem setDraws_errInfo0 (k : Nat) : (setDraws k s).errInfo0 = s.errInfo0 := rfl
@[simp] theorem setDraws_errInfo1 (k : Nat) : (setDraws k s).errInfo1 = s.errInfo1 := rfl
@[simp] theorem setDraws_crcState (k : Nat) : (setDraws k s).crcState = s.crcState := rfl
@[simp] theorem setDraws_cLength (k : Nat) : (setDraws k s).cLength = s.cLength := rfl
@[simp] theorem setDraws_cType (k : Nat) : (setDraws k s).cType = s.cType := rfl
@[simp] theorem setDraws_cCrc (k : Nat) : (setDraws k s).cCrc = s.cCrc := rfl
@[simp] theorem setDraws_cPcount (k : Nat) : (setDraws k s).cPcount = s.cPcount := rfl
@[simp] theorem setDraws_oCount (k : Nat) : (setDraws k s).oCount = s.oCount := rfl
@[simp] theorem setDraws_config (k : Nat) : (setDraws k s).config = s.config := rfl
@[simp] theorem setDraws_capacity (k : Nat) : (setDraws k s).capacity = s.capacity := rfl
@[simp] theorem setDraws_cmdl (k : Nat) : (setDraws k s).cmdl = s.cmdl := rfl
@[simp] theorem setDraws_ibuf (k : Nat) : (setDraws k s).ibuf = s.ibuf := rfl
@[simp] theorem setDraws_pbuf (k : Nat) : (setDraws k s).pbuf = s.pbuf := rfl
@[simp] theorem setDraws_obuf (k : Nat) : (setDraws k s).obuf = s.obuf := rfl
@[simp] theorem setDraws_faultMark (k : Nat) : (setDraws k s).faultMark = s.faultMark := rfl
@[simp] theorem setDraws_unread (k : Nat) : (setDraws k s).unread = s.unread := rfl
@[simp] theorem setDraws_earlyMark (k : Nat) : (setDraws k s).earlyMark = s.earlyMark := rfl
@[simp] theorem setDraws_draws (k : Nat) : (setDraws k s).draws = k := rfl
@[simp] theorem setDraws_response (k : Nat) : (setDraws k s).response = s.response := rfl
@[simp] theorem setDraws_schedule (k : Nat) : (setDraws k s).schedule = s.schedule := rfl

/-! ### setTag -/

@[simp] theorem setTag_err (t : Word) : (setTag t s).err = s.err := rfl
@[simp] theorem setTag_busy (t : Word) : (setTag t s).busy = s.busy := rfl
@[simp] theorem setTag_chunkValid (t : Word) : (setTag t s).chunkValid = s.chunkValid := rfl
@[simp] theorem setTag_argLen (t : Word) : (setTag t s).argLen = s.argLen := rfl
@[simp] theorem setTag_tagin (t : Word) : (setTag t s).tagin = s.tagin := rfl
@[simp] theorem setTag_tag (t : Word) : (setTag t s).tag = t := rfl
@[simp] theorem setTag_errInfo0 (t : Word) : (setTag t s).errInfo0 = s.errInfo0 := rfl
@[simp] theorem setTag_errInfo1 (t : Word) : (setTag t s).errInfo1 = s.errInfo1 := rfl
@[simp] theorem setTag_crcState (t : Word) : (setTag t s).crcState = s.crcState := rfl
@[simp] theorem setTag_cLength (t : Word) : (setTag t s).cLength = s.cLength := rfl
@[simp] theorem setTag_cType (t : Word) : (setTag t s).cType = s.cType := rfl
@[simp] theorem setTag_cCrc (t : Word) : (setTag t s).cCrc = s.cCrc := rfl
@[simp] theorem setTag_cPcount (t : Word) : (setTag t s).cPcount = s.cPcount := rfl
@[simp] theorem setTag_oCount (t : Word) : (setTag t s).oCount = s.oCount := rfl
@[simp] theorem setTag_config (t : Word) : (setTag t s).config = s.config := rfl
@[simp] theorem setTag_capacity (t : Word) : (setTag t s).capacity = s.capacity := rfl
@[simp] theorem setTag_cmdl (t : Word) : (setTag t s).cmdl = s.cmdl := rfl
@[simp] theorem setTag_ibuf (t : Word) : (setTag t s).ibuf = s.ibuf := rfl
@[simp] theorem setTag_pbuf (t : Word) : (setTag t s).pbuf = s.pbuf := rfl
@[simp] theorem setTag_obuf (t : Word) : (setTag t s).obuf = s.obuf := rfl
@[simp] theorem setTag_faultMark (t : Word) : (setTag t s).faultMark = s.faultMark := rfl
@[simp] theorem setTag_unread (t : Word) : (setTag t s).unread = s.unread := rfl
@[simp] theorem setTag_earlyMark (t : Word) : (setTag t s).earlyMark = s.earlyMark := rfl
@[simp] theorem setTag_draws (t : Word) : (setTag t s).draws = s.draws := rfl
@[simp] theorem setTag_response (t : Word) : (setTag t s).response = s.response := rfl
@[simp] theorem setTag_schedule (t : Word) : (setTag t s).schedule = s.schedule := rfl

/-! ### setCrcState -/

@[simp] theorem setCrcState_err (c : Word) : (setCrcState c s).err = s.err := rfl
@[simp] theorem setCrcState_busy (c : Word) : (setCrcState c s).busy = s.busy := rfl
@[simp] theorem setCrcState_chunkValid (c : Word) : (setCrcState c s).chunkValid = s.chunkValid := rfl
@[simp] theorem setCrcState_argLen (c : Word) : (setCrcState c s).argLen = s.argLen := rfl
@[simp] theorem setCrcState_tagin (c : Word) : (setCrcState c s).tagin = s.tagin := rfl
@[simp] theorem setCrcState_tag (c : Word) : (setCrcState c s).tag = s.tag := rfl
@[simp] theorem setCrcState_errInfo0 (c : Word) : (setCrcState c s).errInfo0 = s.errInfo0 := rfl
@[simp] theorem setCrcState_errInfo1 (c : Word) : (setCrcState c s).errInfo1 = s.errInfo1 := rfl
@[simp] theorem setCrcState_crcState (c : Word) : (setCrcState c s).crcState = c := rfl
@[simp] theorem setCrcState_cLength (c : Word) : (setCrcState c s).cLength = s.cLength := rfl
@[simp] theorem setCrcState_cType (c : Word) : (setCrcState c s).cType = s.cType := rfl
@[simp] theorem setCrcState_cCrc (c : Word) : (setCrcState c s).cCrc = s.cCrc := rfl
@[simp] theorem setCrcState_cPcount (c : Word) : (setCrcState c s).cPcount = s.cPcount := rfl
@[simp] theorem setCrcState_oCount (c : Word) : (setCrcState c s).oCount = s.oCount := rfl
@[simp] theorem setCrcState_config (c : Word) : (setCrcState c s).config = s.config := rfl
@[simp] theorem setCrcState_capacity (c : Word) : (setCrcState c s).capacity = s.capacity := rfl
@[simp] theorem setCrcState_cmdl (c : Word) : (setCrcState c s).cmdl = s.cmdl := rfl
@[simp] theorem setCrcState_ibuf (c : Word) : (setCrcState c s).ibuf = s.ibuf := rfl
@[simp] theorem setCrcState_pbuf (c : Word) : (setCrcState c s).pbuf = s.pbuf := rfl
@[simp] theorem setCrcState_obuf (c : Word) : (setCrcState c s).obuf = s.obuf := rfl
@[simp] theorem setCrcState_faultMark (c : Word) : (setCrcState c s).faultMark = s.faultMark := rfl
@[simp] theorem setCrcState_unread (c : Word) : (setCrcState c s).unread = s.unread := rfl
@[simp] theorem setCrcState_earlyMark (c : Word) : (setCrcState c s).earlyMark = s.earlyMark := rfl
@[simp] theorem setCrcState_draws (c : Word) : (setCrcState c s).draws = s.draws := rfl
@[simp] theorem setCrcState_response (c : Word) : (setCrcState c s).response = s.response := rfl
@[simp] theorem setCrcState_schedule (c : Word) : (setCrcState c s).schedule = s.schedule := rfl

/-! ### setChunk -/

@[simp] theorem setChunk_err (l t c n : Word) (p : List Byte) : (setChunk l t c n p s).err = s.err := rfl
@[simp] theorem setChunk_busy (l t c n : Word) (p : List Byte) : (setChunk l t c n p s).busy = s.busy := rfl
@[simp] theorem setChunk_chunkValid (l t c n : Word) (p : List Byte) : (setChunk l t c n p s).chunkValid = true := rfl
@[simp] theorem setChunk_argLen (l t c n : Word) (p : List Byte) : (setChunk l t c n p s).argLen = s.argLen := rfl
@[simp] theorem setChunk_tagin (l t c n : Word) (p : List Byte) : (setChunk l t c n p s).tagin = s.tagin := rfl
@[simp] theorem setChunk_tag (l t c n : Word) (p : List Byte) : (setChunk l t c n p s).tag = s.tag := rfl
@[simp] theorem setChunk_errInfo0 (l t c n : Word) (p : List Byte) : (setChunk l t c n p s).errInfo0 = s.errInfo0 := rfl
@[simp] theorem setChunk_errInfo1 (l t c n : Word) (p : List Byte) : (setChunk l t c n p s).errInfo1 = s.errInfo1 := rfl
@[simp] theorem setChunk_crcState (l t c n : Word) (p : List Byte) : (setChunk l t c n p s).crcState = s.crcState := rfl
@[simp] theorem setChunk_cLength (l t c n : Word) (p : List Byte) : (setChunk l t c n p s).cLength = l := rfl
@[simp] theorem setChunk_cType (l t c n : Word) (p : List Byte) : (setChunk l t c n p s).cType = t := rfl
@[simp] theorem setChunk_cCrc (l t c n : Word) (p : List Byte) : (setChunk l t c n p s).cCrc = c := rfl
@[simp] theorem setChunk_cPcount (l t c n : Word) (p : List Byte) : (setChunk l t c n p s).cPcount = n := rfl
@[simp] theorem setChunk_oCount (l t c n : Word) (p : List Byte) : (setChunk l t c n p s).oCount = s.oCount := rfl
@[simp] theorem setChunk_config (l t c n : Word) (p : List Byte) : (setChunk l t c n p s).config = s.config := rfl
@[simp] theorem setChunk_capacity (l t c n : Word) (p : List Byte) : (setChunk l t c n p s).capacity = s.capacity := rfl
@[simp] theorem setChunk_cmdl (l t c n : Word) (p : List Byte) : (setChunk l t c n p s).cmdl = s.cmdl := rfl
@[simp] theorem setChunk_ibuf (l t c n : Word) (p : List Byte) : (setChunk l t c n p s).ibuf = s.ibuf := rfl
@[simp] theorem setChunk_pbuf (l t c n : Word) (p : List Byte) : (setChunk l t c n p s).pbuf = s.pbuf.writeBytes 0 p := rfl
@[simp] theorem setChunk_obuf (l t c n : Word) (p : List Byte) : (setChunk l t c n p s).obuf = s.obuf := rfl
@[simp] theorem setChunk_faultMark (l t c n : Word) (p : List Byte) : (setChunk l t c n p s).faultMark = s.faultMark := rfl
@[simp] theorem setChunk_unread (l t c n : Word) (p : List Byte) : (setChunk l t c n p s).unread = s.unread := rfl
@[simp] theorem setChunk_earlyMark (l t c n : Word) (p : List Byte) : (setChunk l t c n p s).earlyMark = s.earlyMark := rfl
@[simp] theorem setChunk_draws (l t c n : Word) (p : List Byte) : (setChunk l t c n p s).draws = s.draws := rfl
@[simp] theorem setChunk_response (l t c n : Word) (p : List Byte) : (setChunk l t c n p s).response = s.response := rfl
@[simp] theorem setChunk_schedule (l t c n : Word) (p : List Byte) : (setChunk l t c n p s).schedule = s.schedule := rfl

/-! ### setOutput -/

@[simp] theorem setOutput_err (o : List Byte) (n : Word) : (setOutput o n s).err = s.err := rfl
@[simp] theorem setOutput_busy (o : List Byte) (n : Word) : (setOutput o n s).busy = s.busy := rfl
@[simp] theorem setOutput_chunkValid (o : List Byte) (n : Word) : (setOutput o n s).chunkValid = s.chunkValid := rfl
@[simp] theorem setOutput_argLen (o : List Byte) (n : Word) : (setOutput o n s).argLen = s.argLen := rfl
@[simp] theorem setOutput_tagin (o : List Byte) (n : Word) : (setOutput o n s).tagin = s.tagin := rfl
@[simp] theorem setOutput_tag (o : List Byte) (n : Word) : (setOutput o n s).tag = s.tag := rfl
@[simp] theorem setOutput_errInfo0 (o : List Byte) (n : Word) : (setOutput o n s).errInfo0 = s.errInfo0 := rfl
@[simp] theorem setOutput_errInfo1 (o : List Byte) (n : Word) : (setOutput o n s).errInfo1 = s.errInfo1 := rfl
@[simp] theorem setOutput_crcState (o : List Byte) (n : Word) : (setOutput o n s).crcState = s.crcState := rfl
@[simp] theorem setOutput_cLength (o : List Byte) (n : Word) : (setOutput o n s).cLength = s.cLength := rfl
@[simp] theorem setOutput_cType (o : List Byte) (n : Word) : (setOutput o n s).cType = s.cType := rfl
@[simp] theorem setOutput_cCrc (o : List Byte) (n : Word) : (setOutput o n s).cCrc = s.cCrc := rfl
@[simp] theorem setOutput_cPcount (o : List Byte) (n : Word) : (setOutput o n s).cPcount = s.cPcount := rfl
@[simp] theorem setOutput_oCount (o : List Byte) (n : Word) : (setOutput o n s).oCount = n := rfl
@[simp] theorem setOutput_config (o : List Byte) (n : Word) : (setOutput o n s).config = s.config := rfl
@[simp] theorem setOutput_capacity (o : List Byte) (n : Word) : (setOutput o n s).capacity = s.capacity := rfl
@[simp] theorem setOutput_cmdl (o : List Byte) (n : Word) : (setOutput o n s).cmdl = s.cmdl := rfl
@[simp] theorem setOutput_ibuf (o : List Byte) (n : Word) : (setOutput o n s).ibuf = s.ibuf := rfl
@[simp] theorem setOutput_pbuf (o : List Byte) (n : Word) : (setOutput o n s).pbuf = s.pbuf := rfl
@[simp] theorem setOutput_obuf (o : List Byte) (n : Word) : (setOutput o n s).obuf = s.obuf.writeBytes 0 o := rfl
@[simp] theorem setOutput_faultMark (o : List Byte) (n : Word) : (setOutput o n s).faultMark = s.faultMark := rfl
@[simp] theorem setOutput_unread (o : List Byte) (n : Word) : (setOutput o n s).unread = s.unread := rfl
@[simp] theorem setOutput_earlyMark (o : List Byte) (n : Word) : (setOutput o n s).earlyMark = s.earlyMark := rfl
@[simp] theorem setOutput_draws (o : List Byte) (n : Word) : (setOutput o n s).draws = s.draws := rfl
@[simp] theorem setOutput_response (o : List Byte) (n : Word) : (setOutput o n s).response = s.response := rfl
@[simp] theorem setOutput_schedule (o : List Byte) (n : Word) : (setOutput o n s).schedule = s.schedule := rfl

/-! ### latchCommand -/

@[simp] theorem latchCommand_err (w : Word) : (latchCommand w s).err = s.err := rfl
@[simp] theorem latchCommand_busy (w : Word) : (latchCommand w s).busy = true := rfl
@[simp] theorem latchCommand_chunkValid (w : Word) : (latchCommand w s).chunkValid = s.chunkValid := rfl
@[simp] theorem latchCommand_argLen (w : Word) : (latchCommand w s).argLen = s.argLen := rfl
@[simp] theorem latchCommand_tagin (w : Word) : (latchCommand w s).tagin = s.tagin := rfl
@[simp] theorem latchCommand_tag (w : Word) : (latchCommand w s).tag = s.tag := rfl
@[simp] theorem latchCommand_errInfo0 (w : Word) : (latchCommand w s).errInfo0 = s.errInfo0 := rfl
@[simp] theorem latchCommand_errInfo1 (w : Word) : (latchCommand w s).errInfo1 = s.errInfo1 := rfl
@[simp] theorem latchCommand_crcState (w : Word) : (latchCommand w s).crcState = s.crcState := rfl
@[simp] theorem latchCommand_cLength (w : Word) : (latchCommand w s).cLength = s.cLength := rfl
@[simp] theorem latchCommand_cType (w : Word) : (latchCommand w s).cType = s.cType := rfl
@[simp] theorem latchCommand_cCrc (w : Word) : (latchCommand w s).cCrc = s.cCrc := rfl
@[simp] theorem latchCommand_cPcount (w : Word) : (latchCommand w s).cPcount = s.cPcount := rfl
@[simp] theorem latchCommand_oCount (w : Word) : (latchCommand w s).oCount = s.oCount := rfl
@[simp] theorem latchCommand_config (w : Word) : (latchCommand w s).config = s.config := rfl
@[simp] theorem latchCommand_capacity (w : Word) : (latchCommand w s).capacity = s.capacity := rfl
@[simp] theorem latchCommand_cmdl (w : Word) : (latchCommand w s).cmdl = w := rfl
@[simp] theorem latchCommand_ibuf (w : Word) : (latchCommand w s).ibuf = s.ibuf := rfl
@[simp] theorem latchCommand_pbuf (w : Word) : (latchCommand w s).pbuf = s.pbuf := rfl
@[simp] theorem latchCommand_obuf (w : Word) : (latchCommand w s).obuf = s.obuf := rfl
@[simp] theorem latchCommand_faultMark (w : Word) : (latchCommand w s).faultMark = s.faultMark := rfl
@[simp] theorem latchCommand_unread (w : Word) : (latchCommand w s).unread = true := rfl
@[simp] theorem latchCommand_earlyMark (w : Word) : (latchCommand w s).earlyMark = s.earlyMark := rfl
@[simp] theorem latchCommand_draws (w : Word) : (latchCommand w s).draws = s.draws := rfl
@[simp] theorem latchCommand_response (w : Word) : (latchCommand w s).response = s.response := rfl
@[simp] theorem latchCommand_schedule (w : Word) : (latchCommand w s).schedule = s.schedule := rfl

/-! ### clearBusy -/

@[simp] theorem clearBusy_err : (clearBusy s).err = s.err := rfl
@[simp] theorem clearBusy_busy : (clearBusy s).busy = false := rfl
@[simp] theorem clearBusy_chunkValid : (clearBusy s).chunkValid = s.chunkValid := rfl
@[simp] theorem clearBusy_argLen : (clearBusy s).argLen = s.argLen := rfl
@[simp] theorem clearBusy_tagin : (clearBusy s).tagin = s.tagin := rfl
@[simp] theorem clearBusy_tag : (clearBusy s).tag = s.tag := rfl
@[simp] theorem clearBusy_errInfo0 : (clearBusy s).errInfo0 = s.errInfo0 := rfl
@[simp] theorem clearBusy_errInfo1 : (clearBusy s).errInfo1 = s.errInfo1 := rfl
@[simp] theorem clearBusy_crcState : (clearBusy s).crcState = s.crcState := rfl
@[simp] theorem clearBusy_cLength : (clearBusy s).cLength = s.cLength := rfl
@[simp] theorem clearBusy_cType : (clearBusy s).cType = s.cType := rfl
@[simp] theorem clearBusy_cCrc : (clearBusy s).cCrc = s.cCrc := rfl
@[simp] theorem clearBusy_cPcount : (clearBusy s).cPcount = s.cPcount := rfl
@[simp] theorem clearBusy_oCount : (clearBusy s).oCount = s.oCount := rfl
@[simp] theorem clearBusy_config : (clearBusy s).config = s.config := rfl
@[simp] theorem clearBusy_capacity : (clearBusy s).capacity = s.capacity := rfl
@[simp] theorem clearBusy_cmdl : (clearBusy s).cmdl = s.cmdl := rfl
@[simp] theorem clearBusy_ibuf : (clearBusy s).ibuf = s.ibuf := rfl
@[simp] theorem clearBusy_pbuf : (clearBusy s).pbuf = s.pbuf := rfl
@[simp] theorem clearBusy_obuf : (clearBusy s).obuf = s.obuf := rfl
@[simp] theorem clearBusy_faultMark : (clearBusy s).faultMark = s.faultMark := rfl
@[simp] theorem clearBusy_unread : (clearBusy s).unread = s.unread := rfl
@[simp] theorem clearBusy_earlyMark : (clearBusy s).earlyMark = s.earlyMark := rfl
@[simp] theorem clearBusy_draws : (clearBusy s).draws = s.draws := rfl
@[simp] theorem clearBusy_response : (clearBusy s).response = s.response := rfl
@[simp] theorem clearBusy_schedule : (clearBusy s).schedule = s.schedule := rfl

/-! ### setSchedule -/

@[simp] theorem setSchedule_err (ts : List Turn) : (setSchedule ts s).err = s.err := rfl
@[simp] theorem setSchedule_busy (ts : List Turn) : (setSchedule ts s).busy = s.busy := rfl
@[simp] theorem setSchedule_chunkValid (ts : List Turn) : (setSchedule ts s).chunkValid = s.chunkValid := rfl
@[simp] theorem setSchedule_argLen (ts : List Turn) : (setSchedule ts s).argLen = s.argLen := rfl
@[simp] theorem setSchedule_tagin (ts : List Turn) : (setSchedule ts s).tagin = s.tagin := rfl
@[simp] theorem setSchedule_tag (ts : List Turn) : (setSchedule ts s).tag = s.tag := rfl
@[simp] theorem setSchedule_errInfo0 (ts : List Turn) : (setSchedule ts s).errInfo0 = s.errInfo0 := rfl
@[simp] theorem setSchedule_errInfo1 (ts : List Turn) : (setSchedule ts s).errInfo1 = s.errInfo1 := rfl
@[simp] theorem setSchedule_crcState (ts : List Turn) : (setSchedule ts s).crcState = s.crcState := rfl
@[simp] theorem setSchedule_cLength (ts : List Turn) : (setSchedule ts s).cLength = s.cLength := rfl
@[simp] theorem setSchedule_cType (ts : List Turn) : (setSchedule ts s).cType = s.cType := rfl
@[simp] theorem setSchedule_cCrc (ts : List Turn) : (setSchedule ts s).cCrc = s.cCrc := rfl
@[simp] theorem setSchedule_cPcount (ts : List Turn) : (setSchedule ts s).cPcount = s.cPcount := rfl
@[simp] theorem setSchedule_oCount (ts : List Turn) : (setSchedule ts s).oCount = s.oCount := rfl
@[simp] theorem setSchedule_config (ts : List Turn) : (setSchedule ts s).config = s.config := rfl
@[simp] theorem setSchedule_capacity (ts : List Turn) : (setSchedule ts s).capacity = s.capacity := rfl
@[simp] theorem setSchedule_cmdl (ts : List Turn) : (setSchedule ts s).cmdl = s.cmdl := rfl
@[simp] theorem setSchedule_ibuf (ts : List Turn) : (setSchedule ts s).ibuf = s.ibuf := rfl
@[simp] theorem setSchedule_pbuf (ts : List Turn) : (setSchedule ts s).pbuf = s.pbuf := rfl
@[simp] theorem setSchedule_obuf (ts : List Turn) : (setSchedule ts s).obuf = s.obuf := rfl
@[simp] theorem setSchedule_faultMark (ts : List Turn) : (setSchedule ts s).faultMark = s.faultMark := rfl
@[simp] theorem setSchedule_unread (ts : List Turn) : (setSchedule ts s).unread = s.unread := rfl
@[simp] theorem setSchedule_earlyMark (ts : List Turn) : (setSchedule ts s).earlyMark = s.earlyMark := rfl
@[simp] theorem setSchedule_draws (ts : List Turn) : (setSchedule ts s).draws = s.draws := rfl
@[simp] theorem setSchedule_response (ts : List Turn) : (setSchedule ts s).response = s.response := rfl
@[simp] theorem setSchedule_schedule (ts : List Turn) : (setSchedule ts s).schedule = ts := rfl

/-! ### setResponse -/

@[simp] theorem setResponse_err (r : Response) : (setResponse r s).err = s.err := rfl
@[simp] theorem setResponse_busy (r : Response) : (setResponse r s).busy = s.busy := rfl
@[simp] theorem setResponse_chunkValid (r : Response) : (setResponse r s).chunkValid = s.chunkValid := rfl
@[simp] theorem setResponse_argLen (r : Response) : (setResponse r s).argLen = s.argLen := rfl
@[simp] theorem setResponse_tagin (r : Response) : (setResponse r s).tagin = s.tagin := rfl
@[simp] theorem setResponse_tag (r : Response) : (setResponse r s).tag = s.tag := rfl
@[simp] theorem setResponse_errInfo0 (r : Response) : (setResponse r s).errInfo0 = s.errInfo0 := rfl
@[simp] theorem setResponse_errInfo1 (r : Response) : (setResponse r s).errInfo1 = s.errInfo1 := rfl
@[simp] theorem setResponse_crcState (r : Response) : (setResponse r s).crcState = s.crcState := rfl
@[simp] theorem setResponse_cLength (r : Response) : (setResponse r s).cLength = s.cLength := rfl
@[simp] theorem setResponse_cType (r : Response) : (setResponse r s).cType = s.cType := rfl
@[simp] theorem setResponse_cCrc (r : Response) : (setResponse r s).cCrc = s.cCrc := rfl
@[simp] theorem setResponse_cPcount (r : Response) : (setResponse r s).cPcount = s.cPcount := rfl
@[simp] theorem setResponse_oCount (r : Response) : (setResponse r s).oCount = s.oCount := rfl
@[simp] theorem setResponse_config (r : Response) : (setResponse r s).config = s.config := rfl
@[simp] theorem setResponse_capacity (r : Response) : (setResponse r s).capacity = s.capacity := rfl
@[simp] theorem setResponse_cmdl (r : Response) : (setResponse r s).cmdl = s.cmdl := rfl
@[simp] theorem setResponse_ibuf (r : Response) : (setResponse r s).ibuf = s.ibuf := rfl
@[simp] theorem setResponse_pbuf (r : Response) : (setResponse r s).pbuf = s.pbuf := rfl
@[simp] theorem setResponse_obuf (r : Response) : (setResponse r s).obuf = s.obuf := rfl
@[simp] theorem setResponse_faultMark (r : Response) : (setResponse r s).faultMark = s.faultMark := rfl
@[simp] theorem setResponse_unread (r : Response) : (setResponse r s).unread = s.unread := rfl
@[simp] theorem setResponse_earlyMark (r : Response) : (setResponse r s).earlyMark = s.earlyMark := rfl
@[simp] theorem setResponse_draws (r : Response) : (setResponse r s).draws = s.draws := rfl
@[simp] theorem setResponse_response (r : Response) : (setResponse r s).response = some r := rfl
@[simp] theorem setResponse_schedule (r : Response) : (setResponse r s).schedule = s.schedule := rfl

/-! ### trackPoll -/

@[simp] theorem trackPoll_err (b : Bool) : (trackPoll b s).err = s.err := rfl
@[simp] theorem trackPoll_busy (b : Bool) : (trackPoll b s).busy = s.busy := rfl
@[simp] theorem trackPoll_chunkValid (b : Bool) : (trackPoll b s).chunkValid = s.chunkValid := rfl
@[simp] theorem trackPoll_argLen (b : Bool) : (trackPoll b s).argLen = s.argLen := rfl
@[simp] theorem trackPoll_tagin (b : Bool) : (trackPoll b s).tagin = s.tagin := rfl
@[simp] theorem trackPoll_tag (b : Bool) : (trackPoll b s).tag = s.tag := rfl
@[simp] theorem trackPoll_errInfo0 (b : Bool) : (trackPoll b s).errInfo0 = s.errInfo0 := rfl
@[simp] theorem trackPoll_errInfo1 (b : Bool) : (trackPoll b s).errInfo1 = s.errInfo1 := rfl
@[simp] theorem trackPoll_crcState (b : Bool) : (trackPoll b s).crcState = s.crcState := rfl
@[simp] theorem trackPoll_cLength (b : Bool) : (trackPoll b s).cLength = s.cLength := rfl
@[simp] theorem trackPoll_cType (b : Bool) : (trackPoll b s).cType = s.cType := rfl
@[simp] theorem trackPoll_cCrc (b : Bool) : (trackPoll b s).cCrc = s.cCrc := rfl
@[simp] theorem trackPoll_cPcount (b : Bool) : (trackPoll b s).cPcount = s.cPcount := rfl
@[simp] theorem trackPoll_oCount (b : Bool) : (trackPoll b s).oCount = s.oCount := rfl
@[simp] theorem trackPoll_config (b : Bool) : (trackPoll b s).config = s.config := rfl
@[simp] theorem trackPoll_capacity (b : Bool) : (trackPoll b s).capacity = s.capacity := rfl
@[simp] theorem trackPoll_cmdl (b : Bool) : (trackPoll b s).cmdl = s.cmdl := rfl
@[simp] theorem trackPoll_ibuf (b : Bool) : (trackPoll b s).ibuf = s.ibuf := rfl
@[simp] theorem trackPoll_pbuf (b : Bool) : (trackPoll b s).pbuf = s.pbuf := rfl
@[simp] theorem trackPoll_obuf (b : Bool) : (trackPoll b s).obuf = s.obuf := rfl
@[simp] theorem trackPoll_faultMark (b : Bool) : (trackPoll b s).faultMark = s.faultMark := rfl
@[simp] theorem trackPoll_unread (b : Bool) : (trackPoll b s).unread = (s.unread && (s.busy || !b)) := rfl
@[simp] theorem trackPoll_earlyMark (b : Bool) : (trackPoll b s).earlyMark = (s.earlyMark || (s.unread && !b)) := rfl
@[simp] theorem trackPoll_draws (b : Bool) : (trackPoll b s).draws = s.draws := rfl
@[simp] theorem trackPoll_response (b : Bool) : (trackPoll b s).response = s.response := rfl
@[simp] theorem trackPoll_schedule (b : Bool) : (trackPoll b s).schedule = s.schedule := rfl

/-! ### setFaultMark -/

@[simp] theorem setFaultMark_err : (setFaultMark s).err = s.err := rfl
@[simp] theorem setFaultMark_busy : (setFaultMark s).busy = s.busy := rfl
@[simp] theorem setFaultMark_chunkValid : (setFaultMark s).chunkValid = s.chunkValid := rfl
@[simp] theorem setFaultMark_argLen : (setFaultMark s).argLen = s.argLen := rfl
@[simp] theorem setFaultMark_tagin : (setFaultMark s).tagin = s.tagin := rfl
@[simp] theorem setFaultMark_tag : (setFaultMark s).tag = s.tag := rfl
@[simp] theorem setFaultMark_errInfo0 : (setFaultMark s).errInfo0 = s.errInfo0 := rfl
@[simp] theorem setFaultMark_errInfo1 : (setFaultMark s).errInfo1 = s.errInfo1 := rfl
@[simp] theorem setFaultMark_crcState : (setFaultMark s).crcState = s.crcState := rfl
@[simp] theorem setFaultMark_cLength : (setFaultMark s).cLength = s.cLength := rfl
@[simp] theorem setFaultMark_cType : (setFaultMark s).cType = s.cType := rfl
@[simp] theorem setFaultMark_cCrc : (setFaultMark s).cCrc = s.cCrc := rfl
@[simp] theorem setFaultMark_cPcount : (setFaultMark s).cPcount = s.cPcount := rfl
@[simp] theorem setFaultMark_oCount : (setFaultMark s).oCount = s.oCount := rfl
@[simp] theorem setFaultMark_config : (setFaultMark s).config = s.config := rfl
@[simp] theorem setFaultMark_capacity : (setFaultMark s).capacity = s.capacity := rfl
@[simp] theorem setFaultMark_cmdl : (setFaultMark s).cmdl = s.cmdl := rfl
@[simp] theorem setFaultMark_ibuf : (setFaultMark s).ibuf = s.ibuf := rfl
@[simp] theorem setFaultMark_pbuf : (setFaultMark s).pbuf = s.pbuf := rfl
@[simp] theorem setFaultMark_obuf : (setFaultMark s).obuf = s.obuf := rfl
@[simp] theorem setFaultMark_faultMark : (setFaultMark s).faultMark = true := rfl
@[simp] theorem setFaultMark_unread : (setFaultMark s).unread = s.unread := rfl
@[simp] theorem setFaultMark_earlyMark : (setFaultMark s).earlyMark = s.earlyMark := rfl
@[simp] theorem setFaultMark_draws : (setFaultMark s).draws = s.draws := rfl
@[simp] theorem setFaultMark_response : (setFaultMark s).response = s.response := rfl
@[simp] theorem setFaultMark_schedule : (setFaultMark s).schedule = s.schedule := rfl

/-! ### resetBlock -/

@[simp] theorem resetBlock_err : (resetBlock s).err = 0#4 := rfl
@[simp] theorem resetBlock_busy : (resetBlock s).busy = false := rfl
@[simp] theorem resetBlock_chunkValid : (resetBlock s).chunkValid = false := rfl
@[simp] theorem resetBlock_argLen : (resetBlock s).argLen = 0#32 := rfl
@[simp] theorem resetBlock_tagin : (resetBlock s).tagin = 0#32 := rfl
@[simp] theorem resetBlock_tag : (resetBlock s).tag = 0#32 := rfl
@[simp] theorem resetBlock_errInfo0 : (resetBlock s).errInfo0 = 0#32 := rfl
@[simp] theorem resetBlock_errInfo1 : (resetBlock s).errInfo1 = 0#32 := rfl
@[simp] theorem resetBlock_crcState : (resetBlock s).crcState = 0xFFFFFFFF#32 := rfl
@[simp] theorem resetBlock_cLength : (resetBlock s).cLength = 0#32 := rfl
@[simp] theorem resetBlock_cType : (resetBlock s).cType = 0#32 := rfl
@[simp] theorem resetBlock_cCrc : (resetBlock s).cCrc = 0#32 := rfl
@[simp] theorem resetBlock_cPcount : (resetBlock s).cPcount = 0#32 := rfl
@[simp] theorem resetBlock_oCount : (resetBlock s).oCount = 0#32 := rfl
@[simp] theorem resetBlock_config : (resetBlock s).config = s.config := rfl
@[simp] theorem resetBlock_capacity : (resetBlock s).capacity = s.capacity := rfl
@[simp] theorem resetBlock_cmdl : (resetBlock s).cmdl = 0#32 := rfl
@[simp] theorem resetBlock_ibuf : (resetBlock s).ibuf = [] := rfl
@[simp] theorem resetBlock_pbuf : (resetBlock s).pbuf = [] := rfl
@[simp] theorem resetBlock_obuf : (resetBlock s).obuf = [] := rfl
@[simp] theorem resetBlock_faultMark : (resetBlock s).faultMark = s.faultMark := rfl
@[simp] theorem resetBlock_unread : (resetBlock s).unread = false := rfl
@[simp] theorem resetBlock_earlyMark : (resetBlock s).earlyMark = s.earlyMark := rfl
@[simp] theorem resetBlock_draws : (resetBlock s).draws = s.draws := rfl
@[simp] theorem resetBlock_response : (resetBlock s).response = s.response := rfl
@[simp] theorem resetBlock_schedule : (resetBlock s).schedule = s.schedule := rfl

end Sys2Proof.Machine
end

