-- ==== Sys2Proof/Laws/Ops.lean ====
section
/-!
SUPPORT. What the shared operations can do: reads of a buffer with their draws, big-endian words, the tag scan, the
recording of a result.
-/
namespace Sys2Proof.Machine

/-! ### The parameters -/

/-- The bounds of `P_BUF_BYTES` as numbers (R1). -/
theorem bufBytes_bounds (c : Word) : WellFormed.bufBytes c = true ↔ 12 ≤ c.toNat ∧ c.toNat ≤ 2 ^ 32 - 13 := by
  simp [WellFormed.bufBytes, Config.minBufBytes, Config.maxBufBytes]

/-- `P_BUF_BYTES` is what the implementation chose, brought between its bounds. -/
theorem config_bufBytes_toNat : Config.bufBytes.toNat = max 12 (min Config.bufBytesChoice (2 ^ 32 - 13)) := by
  simp only [Config.bufBytes, Config.minBufBytes, Config.maxBufBytes, BitVec.toNat_ofNat]
  omega

/-! ### Reads with draws -/

/-- A read of a written byte returns it and takes no free value. -/
theorem readByte_written {m : Memory} {a : Nat} {b : Byte} (k : Nat) (h : m.read a = some b) :
    readByte m k a = (b, k) := by simp [readByte, h]

/-- A read returns the byte written there, whatever the count of free values. -/
theorem readByte_of_read {m : Memory} {a : Nat} {b : Byte} (k : Nat) (h : m.read a = some b) :
    (readByte m k a).1 = b := by simp [readByte, h]

theorem readBytes_length (m : Memory) (k a n : Nat) : (readBytes m k a n).1.length = n := by
  induction n generalizing k a with
  | zero => rfl
  | succ n ih => simp [readBytes, ih]

/-- What a sequence of reads returns is something the buffer may read as: all a command's input can be. -/
theorem readBytes_readsAs (m : Memory) (k a n : Nat) : ReadsAs m a n (readBytes m k a n).1 := by
  refine ⟨readBytes_length m k a n, ?_⟩
  induction n generalizing k a with
  | zero => intro i b hi; omega
  | succ n ih =>
    intro i b hi hb
    cases i with
    | zero => simp [readBytes, readByte_of_read k (show m.read a = some b by simpa using hb)]
    | succ i =>
      rw [show a + (i + 1) = (a + 1) + i by omega] at hb
      simpa [readBytes] using ih _ (a + 1) i b (by omega) hb

/-- Of a written range there is only one thing to read. -/
theorem readsAs_of_bytes {m : Memory} {a n : Nat} {p bs : List Byte} (hp : m.bytes a n = some p)
    (h : ReadsAs m a n bs) : bs = p := by
  obtain ⟨hpl, hpi⟩ := (bytes_eq_some _ _ _ _).1 hp
  refine List.ext_getElem? fun i => ?_
  by_cases hi : i < n
  · have hs : p[i]? = some p[i] := List.getElem?_eq_getElem (by omega)
    rw [hs]
    exact h.2 i _ hi (by rw [hpi i hi, hs])
  · rw [List.getElem?_eq_none (by have := h.1; omega), List.getElem?_eq_none (by omega)]

/-- Reading a written range returns its bytes. -/
theorem readBytes_of_bytes {m : Memory} {a n : Nat} {p : List Byte} (k : Nat) (hp : m.bytes a n = some p) :
    (readBytes m k a n).1 = p := readsAs_of_bytes hp (readBytes_readsAs m k a n)

/-- `readWord` is four byte reads: its word is `be32` of something the buffer may read as. -/
theorem readWord_readsAs (m : Memory) (k a : Nat) :
    ∃ b0 b1 b2 b3, ReadsAs m a 4 [b0, b1, b2, b3] ∧ (readWord m k a).1 = be32 b0 b1 b2 b3 := by
  have h := readBytes_readsAs m k a 4
  simp only [readBytes] at h
  exact ⟨_, _, _, _, h, rfl⟩

/-- Two reads of neighbouring ranges are one read of both. -/
theorem readsAs_append {m : Memory} {a n k : Nat} {x y : List Byte} (hx : ReadsAs m a n x)
    (hy : ReadsAs m (a + n) k y) : ReadsAs m a (n + k) (x ++ y) := by
  refine ⟨by simp [hx.1, hy.1], fun i b hi hb => ?_⟩
  by_cases h : i < n
  · rw [List.getElem?_append_left (by rw [hx.1]; exact h)]
    exact hx.2 i b h hb
  · rw [List.getElem?_append_right (by rw [hx.1]; omega), hx.1]
    exact hy.2 (i - n) b (by omega) (by rw [show a + n + (i - n) = a + i by omega]; exact hb)

/-! ### Big-endian words -/

theorem bebytes_length (v : Word) : (bebytes v).length = 4 := rfl

/-- `be32` is the sum R5 writes. -/
theorem be32_toNat (b0 b1 b2 b3 : Byte) :
    (be32 b0 b1 b2 b3).toNat = b0.toNat * 2 ^ 24 + b1.toNat * 2 ^ 16 + b2.toNat * 2 ^ 8 + b3.toNat := by
  simp only [be32, BitVec.toNat_append]
  rw [← Nat.shiftLeft_add_eq_or_of_lt (by omega), ← Nat.shiftLeft_add_eq_or_of_lt (by omega),
    ← Nat.shiftLeft_add_eq_or_of_lt (by omega)]
  simp only [Nat.shiftLeft_eq]
  omega

/-- `bebytes` undoes `be32` (R5). -/
theorem bebytes_be32 (b0 b1 b2 b3 : Byte) : bebytes (be32 b0 b1 b2 b3) = [b0, b1, b2, b3] := by
  have h := be32_toNat b0 b1 b2 b3
  simp only [bebytes, List.cons.injEq, and_true]
  refine ⟨?_, ?_, ?_, ?_⟩ <;> apply BitVec.eq_of_toNat_eq <;>
    simp only [BitVec.extractLsb'_toNat, h, Nat.shiftRight_eq_div_pow] <;> omega

/-- `be32` undoes `bebytes` (R5). -/
theorem be32_bytes (v : Word) :
    be32 (v.extractLsb' 24 8) (v.extractLsb' 16 8) (v.extractLsb' 8 8) (v.extractLsb' 0 8) = v := by
  apply BitVec.eq_of_toNat_eq
  rw [be32_toNat]
  simp only [BitVec.extractLsb'_toNat, Nat.shiftRight_eq_div_pow]
  omega

theorem bebytes_injective {v w : Word} (h : bebytes v = bebytes w) : v = w := by
  simp only [bebytes, List.cons.injEq, and_true] at h
  rw [← be32_bytes v, ← be32_bytes w, h.1, h.2.1, h.2.2.1, h.2.2.2]

/-- The bytes of a tag register, numbered as R7 numbers them. -/
theorem bebytes_eq_tagBytes (r : Word) : bebytes r = [tagByte r 0, tagByte r 1, tagByte r 2, tagByte r 3] := rfl

theorem bebytes_wordOf (bs : List Byte) (i : Nat) (h : i + 4 ≤ bs.length) :
    bebytes (wordOf bs i) = (bs.drop i).take 4 := by
  have hd : (bs.drop i).take 4 = [bs.getD i 0#8, bs.getD (i + 1) 0#8, bs.getD (i + 2) 0#8, bs.getD (i + 3) 0#8] := by
    have hg : ∀ j, i + j < bs.length → bs[i + j]? = some (bs.getD (i + j) 0#8) := fun j hj => by
      simp [List.getD_eq_getElem?_getD, List.getElem?_eq_getElem hj]
    refine List.ext_getElem? fun j => ?_
    rw [List.getElem?_take]
    split
    · rw [List.getElem?_drop, hg j (by omega)]
      rcases j with _ | _ | _ | _ | j <;> first | rfl | omega
    · rw [List.getElem?_eq_none (by simp; omega)]
  rw [hd, wordOf, bebytes_be32]

/-! ### Letters and the tag scan -/

/-- `letter` is R58's two ranges. -/
theorem letter_spec (b : Byte) : (letter b = true) = IsLetter b := by
  simp [letter, IsLetter]

theorem letters_eq_true (r : Word) : letters r = true ↔ AllLetters r := by
  simp only [letters, bebytes_eq_tagBytes, List.all_cons, List.all_nil, Bool.and_true, Bool.and_eq_true, letter_spec]
  constructor
  · rintro ⟨h0, h1, h2, h3⟩ k hk
    rcases k with _ | _ | _ | _ | k <;> first | assumption | omega
  · intro h
    exact ⟨h 0 (by omega), h 1 (by omega), h 2 (by omega), h 3 (by omega)⟩

theorem scanFrom_eq_none (k : Nat) (bs : List Byte) : scanFrom k bs = none ↔ bs.all letter = true := by
  induction bs generalizing k with
  | nil => simp [scanFrom]
  | cons b bs ih =>
    unfold scanFrom
    split
    · next h => simp [h, ih]
    · next h => simp [h]

/-- The scan passes exactly the constructible tags. -/
theorem scanTag_eq_none (t : Word) : scanTag t = none ↔ letters t = true := scanFrom_eq_none 0 (bebytes t)

/-- The scan stops at the first byte that is not a letter and reports its value and index (R67). -/
theorem scanTag_of_first {t : Word} {k : Nat} (h : FirstNonLetter t k) :
    scanTag t = some (invalidByteInfo (tagByte t k) k) := by
  obtain ⟨hk, hb, hj⟩ := h
  have hl : ∀ j, j < k → letter (tagByte t j) = true := fun j h => by rw [letter_spec]; exact hj j h
  have hn : letter (tagByte t k) = false := by rw [← Bool.not_eq_true, letter_spec]; exact hb
  rw [scanTag, bebytes_eq_tagBytes]
  rcases k with _ | _ | _ | _ | k
  · simp [scanFrom, hn]
  · simp [scanFrom, hn, hl 0]
  · simp [scanFrom, hn, hl 0, hl 1]
  · simp [scanFrom, hn, hl 0, hl 1, hl 2]
  · omega

/-- A tag that is not constructible has a first byte that is not a letter. -/
theorem exists_first_of_not_letters {t : Word} (h : letters t = false) : ∃ k, FirstNonLetter t k := by
  have h' : ¬ AllLetters t := by rw [← letters_eq_true, h]; simp
  by_cases h0 : IsLetter (tagByte t 0)
  · by_cases h1 : IsLetter (tagByte t 1)
    · by_cases h2 : IsLetter (tagByte t 2)
      · refine ⟨3, by omega, fun h3 => h' fun k hk => ?_, fun j hj => ?_⟩
        · rcases k with _ | _ | _ | _ | k <;> first | assumption | omega
        · rcases j with _ | _ | _ | j <;> first | assumption | omega
      · refine ⟨2, by omega, h2, fun j hj => ?_⟩
        rcases j with _ | _ | j <;> first | assumption | omega
    · exact ⟨1, by omega, h1, fun j hj => by obtain rfl : j = 0 := by omega
                                             exact h0⟩
  · exact ⟨0, by omega, h0, fun j hj => by omega⟩

/-! ### Results -/

@[simp] theorem raise_eq_report (e : ErrorKind) (i j : Word) (s : State) :
    raise e i j s = report (errorCode e) i j s := rfl

@[simp] theorem succeed_eq_report (s : State) : succeed s = report 0#4 0#32 0#32 s := rfl

/-- No error kind has code 0: a raise is never taken for a success (R90). -/
theorem errorCode_ne_zero (e : ErrorKind) : errorCode e ≠ 0#4 := by cases e <;> decide

/-- A result register update changes nothing but the three result registers (R91, R92). -/
theorem report_eq (c : BitVec 4) (i j : Word) (s : State) :
    report c i j s = { s with err := c, errInfo0 := i, errInfo1 := j } := rfl

/-! ### The block apart from the model's own fields -/

@[simp] theorem blockOf_setDraws (k : Nat) (s : State) : blockOf (setDraws k s) = blockOf s := rfl
@[simp] theorem blockOf_setSchedule (ts : List Turn) (s : State) : blockOf (setSchedule ts s) = blockOf s := rfl
@[simp] theorem blockOf_setResponse (r : Response) (s : State) : blockOf (setResponse r s) = blockOf s := rfl
@[simp] theorem blockOf_setFaultMark (s : State) : blockOf (setFaultMark s) = blockOf s := rfl
@[simp] theorem blockOf_trackPoll (b : Bool) (s : State) : blockOf (trackPoll b s) = blockOf s := rfl

end Sys2Proof.Machine
end

