-- ==== Sys2Proof/Laws/Commands.lean ====
section
/-!
SUPPORT. Everything a command can do, said once (`exec_effect`): a failure that writes only the report, or one of four
kinds of success. Every whole-machine fact about commands follows from this inversion.
-/
namespace Sys2Proof.Machine

/-- The next state each command computes. -/
def nextOf : Instr → State → State
  | .tagLoad => tagLoadNext
  | .tagLoadStr => tagLoadStrNext
  | .tagFromChunk => tagFromChunkNext
  | .crcInit => crcInitNext
  | .crcUpdate => crcUpdateNext
  | .chunkBuild => chunkBuildNext
  | .chunkDecode => chunkDecodeNext
  | .chunkEncode => chunkEncodeNext

theorem exec_eq_nextOf (i : Instr) (s : State) : exec i s = .next (nextOf i s) := by cases i <;> rfl

/-- What command `i` may turn `s` into. -/
inductive Effect (i : Instr) (s : State) : State → Prop where
  /-- A failure (R91): the report, and the count of free values taken by reads. -/
  | failed (e : ErrorKind) (i0 i1 : Word) (k : Nat) (he : e ≠ .lengthOverflow) :
      Effect i s (raise e i0 i1 (setDraws k s))
  /-- A tag load (R67, R68, R69). -/
  | tag (t : Word) (k : Nat) (hi : i = .tagLoad ∨ i = .tagLoadStr ∨ i = .tagFromChunk)
      (ht : letters t = true ∨ (s.chunkValid = true ∧ t = s.cType)) :
      Effect i s (succeed (setTag t (setDraws k s)))
  /-- A CRC command (R74, R75). -/
  | crc (c : Word) (k : Nat) (hi : i = .crcInit ∨ i = .crcUpdate) :
      Effect i s (succeed (setCrcState c (setDraws k s)))
  /-- A chunk record (R81, R82). -/
  | chunk (len t n : Word) (p : List Byte) (k : Nat) (hi : i = .chunkBuild ∨ i = .chunkDecode)
      (ht : letters t = true) (hp : p.length = n.toNat) (hn : n.toNat ≤ s.capacity.toNat)
      (hl : i = .chunkBuild ∨ s.config = .strict → len = n) :
      Effect i s (succeed (setChunk len t (chunkCrc t p) n p (setDraws k s)))
  /-- A serialization (R84). -/
  | output (p : List Byte) (k : Nat) (hi : i = .chunkEncode) (hv : s.chunkValid = true)
      (hp : p.length = s.cPcount.toNat) :
      Effect i s (succeed (setOutput (frameBytes s.cLength s.cType s.cCrc p) (12#32 + s.cPcount) (setDraws k s)))

theorem setDraws_self (s : State) : setDraws s.draws s = s := rfl

/-- A failure that took no free value. -/
theorem effect_failed_plain (i : Instr) (s : State) (e : ErrorKind) (i0 i1 : Word) (he : e ≠ .lengthOverflow) :
    Effect i s (raise e i0 i1 s) := Effect.failed e i0 i1 s.draws he

theorem toNat_sub_twelve (n : Word) (h : 12 ≤ n.toNat) : (n - 12#32).toNat = n.toNat - 12 := by
  have := n.isLt
  rw [BitVec.toNat_sub]
  simp only [BitVec.toNat_ofNat]
  omega

theorem chunkDecodeBody_effect (s : State) (len t : Word) (k : Nat) (h12 : 12 ≤ (opCount s).toNat)
    (hcap : (opCount s).toNat ≤ s.capacity.toNat) (ht : letters t = true) :
    Effect .chunkDecode s (chunkDecodeBody s len t k) := by
  simp only [chunkDecodeBody]
  have hsub := toNat_sub_twelve (opCount s) h12
  split
  · exact .failed _ _ _ _ (by simp)
  · next hstrict =>
    split
    · exact .failed _ _ _ _ (by simp)
    · next hcrc =>
      rw [← not_not.1 hcrc]
      refine .chunk _ _ _ _ _ (.inr rfl) ht ?_ (by omega) ?_
      · exact (readBytes_length _ _ _ _).trans hsub.symm
      · rintro (h | h)
        · simp at h
        · exact not_not.1 fun hne => hstrict ⟨h, hne⟩

/-- Everything a command can do. -/
theorem exec_effect {i : Instr} {s t : State} (h : exec i s = .next t) : Effect i s t := by
  rw [exec_eq_nextOf] at h
  obtain rfl : nextOf i s = t := by simpa using h
  cases i with
  | tagLoad =>
    simp only [nextOf, tagLoadNext, opRawTag]
    split
    · exact effect_failed_plain _ _ _ _ _ (by simp)
    · next hs => exact .tag s.tagin s.draws (.inl rfl) (.inl ((scanTag_eq_none _).1 hs))
  | tagLoadStr =>
    simp only [nextOf, tagLoadStrNext]
    split
    · exact effect_failed_plain _ _ _ _ _ (by simp)
    · split
      · exact .failed _ _ _ _ (by simp)
      · next hs => exact .tag _ _ (.inr (.inl rfl)) (.inl ((scanTag_eq_none _).1 hs))
  | tagFromChunk =>
    simp only [nextOf, tagFromChunkNext]
    split
    · next hv => exact .tag s.cType s.draws (.inr (.inr rfl)) (.inr ⟨hv, rfl⟩)
    · exact effect_failed_plain _ _ _ _ _ (by simp)
  | crcInit => exact .crc _ s.draws (.inl rfl)
  | crcUpdate =>
    simp only [nextOf, crcUpdateNext]
    split
    · exact effect_failed_plain _ _ _ _ _ (by simp)
    · exact .crc _ _ (.inr rfl)
  | chunkBuild =>
    simp only [nextOf, chunkBuildNext]
    split
    · exact effect_failed_plain _ _ _ _ _ (by simp)
    · split
      · exact effect_failed_plain _ _ _ _ _ (by simp)
      · split
        · next h => have := (opCount s).isLt; omega
        · next hcap hl _ =>
          exact .chunk _ _ _ _ _ (.inl rfl) (by simpa using hl) (readBytes_length _ _ _ _) (by omega) fun _ => rfl
  | chunkDecode =>
    simp only [nextOf, chunkDecodeNext]
    split
    · exact effect_failed_plain _ _ _ _ _ (by simp)
    · split
      · exact effect_failed_plain _ _ _ _ _ (by simp)
      · split
        · exact .failed _ _ _ _ (by simp)
        · next hs => exact chunkDecodeBody_effect _ _ _ _ (by omega) (by omega) ((scanTag_eq_none _).1 hs)
  | chunkEncode =>
    simp only [nextOf, chunkEncodeNext]
    split
    · next hv => exact .output _ _ rfl hv (readBytes_length _ _ _ _)
    · exact effect_failed_plain _ _ _ _ _ (by simp)

end Sys2Proof.Machine
end

