-- ==== Sys2Proof/Laws/Crc.lean ====
section
/-!
SUPPORT. The CRC step is one-to-one in its register and in its byte: what the error-detection laws rest on.
-/
namespace Sys2Proof.Machine

/-- Bit 31 after one turn is bit 0 before it: the reflected polynomial has its bit 31 set. -/
theorem crcBit_top (c : Word) : (crcBit c).getLsbD 31 = c.getLsbD 0 := by
  unfold crcBit
  split
  · next h => simpa using h
  · next h => simpa using h

theorem crcBit_injective {c d : Word} (h : crcBit c = crcBit d) : c = d := by
  have h0 : c.getLsbD 0 = d.getLsbD 0 := by rw [← crcBit_top c, ← crcBit_top d, h]
  have hs : c >>> 1 = d >>> 1 := by
    unfold crcBit at h
    rw [h0] at h
    split at h
    · exact (BitVec.xor_left_inj _).1 h
    · exact h
  apply BitVec.eq_of_getLsbD_eq
  intro i hi
  cases i with
  | zero => exact h0
  | succ i =>
    have := congrArg (fun x : Word => x.getLsbD i) hs
    simpa [BitVec.getLsbD_ushiftRight, Nat.add_comm] using this

theorem crcBits_injective (n : Nat) {c d : Word} (h : crcBits n c = crcBits n d) : c = d := by
  induction n generalizing c d with
  | zero => exact h
  | succ n ih => exact crcBit_injective (ih h)

theorem zext32_injective {a b : Byte} (h : zext32 a = zext32 b) : a = b := by
  have := congrArg BitVec.toNat h
  apply BitVec.eq_of_toNat_eq
  simp only [zext32, BitVec.toNat_setWidth] at this
  omega

/-- `crc_step` is one-to-one in the register. -/
theorem crcStep_injective_left {c d : Word} {b : Byte} (h : crcStep c b = crcStep d b) : c = d :=
  (BitVec.xor_left_inj _).1 (crcBits_injective 8 h)

/-- `crc_step` is one-to-one in the byte. -/
theorem crcStep_injective_right {c : Word} {a b : Byte} (h : crcStep c a = crcStep c b) : a = b :=
  zext32_injective ((BitVec.xor_right_inj _).1 (crcBits_injective 8 h))

/-- `crc_fold` is one-to-one in the register it starts from. -/
theorem crcFold_injective_left {c d : Word} (x : List Byte) (h : crcFold c x = crcFold d x) : c = d := by
  induction x generalizing c d with
  | nil => exact h
  | cons b x ih => exact crcStep_injective_left (ih h)

end Sys2Proof.Machine
end

