-- ==== Sys2Proof/Laws/Frame.lean ====
section
/-!
SUPPORT. Frames taken apart and put together (spec/42_chunk_frame.md R79): the fields of a frame's bytes, and the bytes
of a frame from its fields.
-/
namespace Sys2Proof.Machine

theorem frameBytes_length (l t c : Word) (p : List Byte) : (frameBytes l t c p).length = 12 + p.length := by
  simp only [frameBytes, List.length_append, bebytes_length]
  omega

/-- Four bytes at index `i` are the word there. -/
theorem wordOf_of_take {bs : List Byte} {i : Nat} {v : Word} (hl : i + 4 ≤ bs.length)
    (h : (bs.drop i).take 4 = bebytes v) : wordOf bs i = v :=
  bebytes_injective ((bebytes_wordOf bs i hl).trans h)

theorem wordOf_frameBytes_length (l t c : Word) (p : List Byte) : wordOf (frameBytes l t c p) 0 = l :=
  wordOf_of_take (by rw [frameBytes_length]; omega) rfl

theorem wordOf_frameBytes_type (l t c : Word) (p : List Byte) : wordOf (frameBytes l t c p) 4 = t :=
  wordOf_of_take (by rw [frameBytes_length]; omega) rfl

theorem wordOf_frameBytes_crc (l t c : Word) (p : List Byte) :
    wordOf (frameBytes l t c p) (8 + p.length) = c := by
  refine wordOf_of_take (by rw [frameBytes_length]; omega) ?_
  have hl : (bebytes l ++ bebytes t ++ p).length = 8 + p.length := by
    simp only [List.length_append, bebytes_length]
  rw [frameBytes, ← hl, List.drop_left]
  rfl

theorem payload_frameBytes (l t c : Word) (p : List Byte) :
    ((frameBytes l t c p).drop 8).take p.length = p := by
  have h : (frameBytes l t c p).drop 8 = p ++ bebytes c := rfl
  rw [h, List.take_left]

/-- A frame of at least 12 bytes is the frame of its fields. -/
theorem frameBytes_of_fields {f : List Byte} {n : Nat} (hl : f.length = n) (h12 : 12 ≤ n) :
    frameBytes (wordOf f 0) (wordOf f 4) (wordOf f (n - 4)) ((f.drop 8).take (n - 12)) = f := by
  rw [frameBytes, bebytes_wordOf f 0 (by omega), bebytes_wordOf f 4 (by omega), bebytes_wordOf f (n - 4) (by omega)]
  have h4 : (f.drop (n - 4)).take 4 = f.drop (n - 4) := List.take_of_length_le (by rw [List.length_drop]; omega)
  have ha : (f.drop 0).take 4 ++ (f.drop 4).take 4 = f.take 8 := by
    rw [List.drop_zero, ← List.take_add]
  have hb : (f.drop 8).take (n - 12) ++ f.drop (n - 4) = f.drop 8 := by
    have : f.drop (n - 4) = (f.drop 8).drop (n - 12) := by rw [List.drop_drop]; congr 1; omega
    rw [this, List.take_append_drop]
  rw [h4, ha, List.append_assoc, hb, List.take_append_drop]

end Sys2Proof.Machine
end

