-- ==== Sys2Proof/Laws/Step.lean ====
section
/-!
SUPPORT. Everything a step can do, said once (`step_next_cases`), and everything a host access can do
(`hostAccess_cases`).
-/
namespace Sys2Proof.Machine

/-- The three things a HOST step can be: a host fault, a write, a read (R35). -/
theorem hostAccess_cases (a : Access) (s : State) :
    ((∃ f, hostFaultOf s a = some f) ∧ hostAccess a s = recordHostFault s) ∨
    (hostFaultOf s a = none ∧ a.write = true ∧ hostAccess a s = hostWrite (trackPoll (isStatusRead a) s) a) ∨
    (hostFaultOf s a = none ∧ a.write = false ∧ hostAccess a s = hostRead (trackPoll (isStatusRead a) s) a) := by
  unfold hostAccess
  cases hf : hostFaultOf s a with
  | some f => exact .inl ⟨⟨f, rfl⟩, rfl⟩
  | none => cases hw : a.write <;> simp

/-- What the ENGINE's completion answers: never a stop (R56). -/
theorem complete_eq (s : State) :
    complete s = match decode s.cmdl with
      | .error _ => .next (clearBusy (raise .illegalCmd s.cmdl 0#32 s))
      | .ok i => .next (clearBusy (nextOf i s)) := by
  unfold complete
  cases decode s.cmdl with
  | error e => rfl
  | ok i => simp only [exec_eq_nextOf, endCompletion]

/-- Every way a step can answer a next state. -/
inductive StepCase (s : State) : State → Prop where
  /-- No turn left and no command in flight: the block waits. -/
  | idle (hs : s.schedule = []) (hb : s.busy = false) : StepCase s s
  /-- A HOST step. -/
  | host (a : Access) (ts : List Turn) (hs : s.schedule = .host a :: ts) :
      StepCase s (hostAccess a (setSchedule ts s))
  /-- A reset. -/
  | reset (ts : List Turn) (hs : s.schedule = .reset :: ts) : StepCase s (resetBlock (setSchedule ts s))
  /-- The completion of an illegal word. -/
  | illegal (e : DecodeError) (hn : EngineIsNext s) (hd : decode s.cmdl = .error e) :
      StepCase s (clearBusy (raise .illegalCmd s.cmdl 0#32 (setSchedule s.schedule.tail s)))
  /-- The completion of a command. -/
  | command (i : Instr) (u : State) (hn : EngineIsNext s) (hd : decode s.cmdl = .ok i)
      (he : exec i (setSchedule s.schedule.tail s) = .next u) : StepCase s (clearBusy u)

theorem setSchedule_self (s : State) : setSchedule s.schedule s = s := rfl

theorem complete_cases {s u : State} (hn : EngineIsNext s)
    (h : complete (setSchedule s.schedule.tail s) = .next u) : StepCase s u := by
  rw [complete_eq] at h
  simp only [setSchedule_cmdl] at h
  split at h
  · next e hd => obtain rfl := by simpa using h
                 exact .illegal e hn hd
  · next i hd => obtain rfl := by simpa using h
                 exact .command i _ hn hd (exec_eq_nextOf _ _)

/-- The ENGINE's completion is the step when the ENGINE is next. -/
theorem step_of_engineIsNext {s : State} (hn : EngineIsNext s) :
    step s = complete (setSchedule s.schedule.tail s) := by
  obtain ⟨hb, hs | hs⟩ := hn
  · simp only [step, takeTurn, hs, hb, if_true, List.tail_nil]
    rw [← hs, setSchedule_self]
  · cases hl : s.schedule with
    | nil => simp [hl] at hs
    | cons t ts =>
      obtain rfl : t = .engine := by simpa [hl] using hs
      simp [step, takeTurn, hl, engineTurn, hb]

/-- Everything a step can do. -/
theorem step_next_cases {s t : State} (h : step s = .next t) : StepCase s t := by
  by_cases hn : EngineIsNext s
  · rw [step_of_engineIsNext hn] at h
    exact complete_cases hn h
  · cases hs : s.schedule with
    | nil =>
      have hb : s.busy = false := by
        cases hb : s.busy with
        | false => rfl
        | true => exact absurd ⟨hb, .inl hs⟩ hn
      obtain rfl : s = t := by simpa [step, takeTurn, hs, hb] using h
      exact .idle hs hb
    | cons u ts =>
      cases u with
      | host a =>
        obtain rfl : hostAccess a (setSchedule ts s) = t := by simpa [step, takeTurn, hs] using h
        exact .host a ts hs
      | reset =>
        obtain rfl : resetBlock (setSchedule ts s) = t := by simpa [step, takeTurn, hs] using h
        exact .reset ts hs
      | engine =>
        cases hb : s.busy with
        | true => exact absurd ⟨hb, .inr (by simp [hs])⟩ hn
        | false => simp [step, takeTurn, hs, engineTurn, hb] at h

/-- A run takes the first step and goes on. -/
theorem run_succ (M : Host.Core) (k : Nat) {s t : M.State} (h : M.step s = .next t) : M.run (k + 1) s = M.run k t := by
  simp [Host.Core.run, h]

end Sys2Proof.Machine
end

