-- ==== Sys2Proof/Laws/HostPort.lean ====
section
/-!
SUPPORT. What the host port does: when an access is a host fault, and what a fault, a read and a write leave alone.
-/
namespace Sys2Proof.Machine

theorem isStatusRead_iff (a : Access) : isStatusRead a = true ↔ IsStatusRead a := by
  simp [isStatusRead, IsStatusRead, and_assoc]

/-- A register stands at an offset exactly when the offset is a multiple of 4 below 0x40 (R29, R36). -/
theorem regAt_isSome (off : Word) : (regAt off).isSome = true ↔ off.toNat % 4 = 0 ∧ off.toNat < 0x40 := by
  unfold regAt
  split
  · next h =>
    have hlen : regMap.length = 16 := rfl
    rw [Option.isSome_iff_ne_none, ne_eq, List.getElem?_eq_none_iff]
    omega
  · next h => simp [h]

/-- The register map is the offsets of the register names, both ways (R57). -/
theorem regAt_eq_some (off : Word) (r : Reg) : regAt off = some r ↔ off = regOff r := by
  constructor
  · intro h
    have hs : (regAt off).isSome = true := by simp [h]
    obtain ⟨h4, h40⟩ := (regAt_isSome off).1 hs
    obtain ⟨k, hk⟩ : ∃ k, off.toNat = 4 * k := ⟨off.toNat / 4, by omega⟩
    have hoff : off = BitVec.ofNat 32 (4 * k) := by rw [← hk]; simp
    have hk16 : k < 16 := by omega
    subst hoff
    clear hs h4 h40 hk
    revert h
    interval_cases k <;> cases r <;> decide
  · rintro rfl
    cases r <;> decide

/-- The writable registers are the ones at 0x00, 0x08 and 0x0C (R36). -/
theorem regWritable_iff (r : Reg) :
    regWritable r = true ↔ regOff r = 0x00#32 ∨ regOff r = 0x08#32 ∨ regOff r = 0x0C#32 := by
  cases r <;> decide

theorem regFault_isSome (a : Access) :
    (regFault a).isSome = true ↔
      (a.size ≠ .word ∨ a.off.toNat % 4 ≠ 0 ∨ 0x40 ≤ a.off.toNat) ∨
      (a.write = true ∧ a.off ≠ 0x00#32 ∧ a.off ≠ 0x08#32 ∧ a.off ≠ 0x0C#32) := by
  have hsome := regAt_isSome a.off
  unfold regFault
  cases hz : a.size with
  | byte => simp
  | word =>
    cases hr : regAt a.off with
    | none =>
      rw [hr] at hsome
      simp only [Option.isSome_none, Bool.false_eq_true, false_iff, not_and, Nat.not_lt] at hsome
      simp only [Option.isSome_some, true_iff]
      by_cases h4 : a.off.toNat % 4 = 0
      · exact .inl (.inr (.inr (hsome h4)))
      · exact .inl (.inr (.inl h4))
    | some r =>
      rw [hr] at hsome
      obtain ⟨h4, h40⟩ := hsome.1 rfl
      have hoff := (regAt_eq_some a.off r).1 hr
      have hw := regWritable_iff r
      rw [← hoff] at hw
      cases hb : a.write with
      | false => simp [h4, h40]
      | true =>
        by_cases hc : regWritable r = true
        · have hregs := hw.1 hc
          simp only [hc, h4, Nat.not_le.2 h40]
          simp only [Bool.not_true, Bool.and_false, Bool.false_eq_true, if_false, Option.isSome_none, false_iff]
          tauto
        · have hregs := mt hw.2 hc
          simp only [not_or] at hregs
          simp [hc, hregs]

theorem bufferFault_isSome (s : State) (a : Access) :
    (bufferFault s a).isSome = true ↔
      (a.size ≠ .byte ∨ spaceSize s a.space ≤ a.off.toNat) ∨ (a.write = true ∧ a.space ≠ .ibuf) := by
  unfold bufferFault
  split
  · next h => simp [h]
  · next h =>
    split
    · next h2 => simpa [h] using h2
    · next h2 => simpa [h] using h2

/-- The accesses the port treats as host faults are exactly those of R95. -/
theorem hostFaultOf_isSome (s : State) (a : Access) : (hostFaultOf s a).isSome = true ↔ BreaksProtocol s a := by
  unfold hostFaultOf BreaksProtocol
  have hst := isStatusRead_iff a
  split
  · next h =>
    simp only [Bool.and_eq_true, Bool.not_eq_true', ← Bool.not_eq_true, hst] at h
    simp only [Option.isSome_some, true_iff]
    exact .inr (.inr (.inr (.inr h)))
  · next h =>
    have h' : ¬ (s.busy = true ∧ ¬ IsStatusRead a) := by
      simpa only [Bool.and_eq_true, Bool.not_eq_true', ← Bool.not_eq_true, hst] using h
    simp only [h', or_false]
    split
    · next hsp =>
      rw [regFault_isSome]
      simp [hsp]
    · next hsp =>
      rw [bufferFault_isSome]
      cases hx : a.space with
      | reg => exact absurd hx hsp
      | ibuf => simp
      | pbuf => simp
      | obuf => simp

theorem hostFaultOf_none {s : State} {a : Access} (h : ¬ BreaksProtocol s a) : hostFaultOf s a = none := by
  rw [← hostFaultOf_isSome] at h
  simpa using h

/-- A host fault leaves the block alone (R95). -/
@[simp] theorem blockOf_recordHostFault (s : State) : blockOf (recordHostFault s) = blockOf s := by
  simp [recordHostFault]

/-- A read leaves the block alone (R43). -/
@[simp] theorem blockOf_hostRead (s : State) (a : Access) : blockOf (hostRead s a) = blockOf s := by
  simp [hostRead]

/-- A write changes of the block what it stores, and nothing else (R43). -/
@[simp] theorem blockOf_hostWrite (s : State) (a : Access) : blockOf (hostWrite s a) = blockOf (storeData s a) := by
  simp [hostWrite]

@[simp] theorem regAt_regOff (r : Reg) : regAt (regOff r) = some r := (regAt_eq_some _ _).2 rfl

/-- A write to a register is `writeReg` (R36). -/
theorem storeData_reg (s : State) (r : Reg) (w : Bool) (z : Size) (v : Word) :
    storeData s ⟨.reg, regOff r, w, z, v⟩ = writeReg s r v := by
  simp [storeData]

/-- A write to an IBUF byte stores `v[7:0]` (R37). -/
theorem storeData_ibuf (s : State) (off : Word) (w : Bool) (z : Size) (v : Word) :
    storeData s ⟨.ibuf, off, w, z, v⟩ = { s with ibuf := s.ibuf.write off.toNat (v.setWidth 8) } := rfl

/-- A read of a register is `readReg` and takes no free value (R36). -/
theorem readData_reg (s : State) (r : Reg) (w : Bool) (z : Size) (v : Word) :
    readData s ⟨.reg, regOff r, w, z, v⟩ = (readReg s r, s.draws) := by
  simp [readData]

/-- Below the count, a read returns the byte held there (R40). -/
theorem readHeld_below {m : Memory} {count a : Nat} {b : Byte} (k : Nat) (hc : a < count) (h : m.read a = some b) :
    readHeld m k count a = (b, k) := by
  simp [readHeld, hc, readByte_written k h]

theorem hostAccess_fault {s : State} {a : Access} (h : BreaksProtocol s a) : hostAccess a s = recordHostFault s := by
  rw [← hostFaultOf_isSome, Option.isSome_iff_exists] at h
  obtain ⟨f, hf⟩ := h
  simp [hostAccess, hf]

theorem hostAccess_read {s : State} {a : Access} (h : ¬ BreaksProtocol s a) (hw : a.write = false) :
    hostAccess a s = hostRead (trackPoll (isStatusRead a) s) a := by
  simp [hostAccess, hostFaultOf_none h, hw]

theorem hostAccess_write {s : State} {a : Access} (h : ¬ BreaksProtocol s a) (hw : a.write = true) :
    hostAccess a s = hostWrite (trackPoll (isStatusRead a) s) a := by
  simp [hostAccess, hostFaultOf_none h, hw]

/-- A HOST turn is the step of that access. -/
theorem step_host {s : State} {a : Access} {ts : List Turn} (h : s.schedule = .host a :: ts) :
    step s = .next (hostAccess a (setSchedule ts s)) := by
  simp [step, takeTurn, h]

/-- Reads of the schedule do not decide what breaks the protocol. -/
theorem breaksProtocol_setSchedule (ts : List Turn) (s : State) (a : Access) :
    BreaksProtocol (setSchedule ts s) a ↔ BreaksProtocol s a := by
  have hsz : spaceSize (setSchedule ts s) a.space = spaceSize s a.space := by cases a.space <;> rfl
  simp [BreaksProtocol, hsz]

/-- What a write may store: the whole list of cases (R36, R37). -/
theorem storeData_cases (s : State) (a : Access) :
    storeData s a = s ∨ storeData s a = latchCommand a.wdata s ∨ storeData s a = { s with argLen := a.wdata } ∨
      storeData s a = { s with tagin := a.wdata } ∨
      (a.space = .ibuf ∧ storeData s a = { s with ibuf := s.ibuf.write a.off.toNat (a.wdata.setWidth 8) }) := by
  unfold storeData
  cases hx : a.space with
  | pbuf => exact .inl rfl
  | obuf => exact .inl rfl
  | ibuf => exact .inr (.inr (.inr (.inr ⟨rfl, rfl⟩)))
  | reg =>
    cases hr : regAt a.off with
    | none => exact .inl rfl
    | some r => cases r <;> simp [writeReg]

end Sys2Proof.Machine
end

