-- ==== Sys2Proof/Laws/PerInstr.lean ====
section
/-!
SUPPORT. One fact per command about its word (spec/30_encoding.md R50 to R52): the word of a well-formed command passes
the check on command words, carries the OP of the opcode map and has RSVD = 0.
-/
namespace Sys2Proof.Laws.Encoding

/-- What is said of every command: its word is a command word, with the command's OP below clear reserved bits. -/
def Statement (i : Instr) : Prop :=
  i.wellFormed = true → WellFormed.commandWord (encode i) = true ∧ reservedField (encode i) = 0#24 ∧
    decodeOp (opField (encode i)) = some i

theorem tagLoad : Statement .tagLoad := fun _ => by decide

theorem tagLoadStr : Statement .tagLoadStr := fun _ => by decide

theorem tagFromChunk : Statement .tagFromChunk := fun _ => by decide

theorem crcInit : Statement .crcInit := fun _ => by decide

theorem crcUpdate : Statement .crcUpdate := fun _ => by decide

theorem chunkBuild : Statement .chunkBuild := fun _ => by decide

theorem chunkDecode : Statement .chunkDecode := fun _ => by decide

theorem chunkEncode : Statement .chunkEncode := fun _ => by decide

end Sys2Proof.Laws.Encoding
end

