-- ==== Sys2Proof/Machine/HostProgram.lean ====
section
/-!
DEFINITION. The host program forms of spec/30_encoding.md R57 as the turns they stand for. They are not state of the
block (spec/10_state.md R11); a caller puts them into State.schedule.
-/
namespace Sys2Proof.Machine

/-- `WR <reg>, <v>` -/
def hostWR (r : Reg) (v : Word) : Turn := .host ⟨.reg, regOff r, true, .word, v⟩

/-- `RD <reg>` -/
def hostRD (r : Reg) : Turn := .host ⟨.reg, regOff r, false, .word, 0#32⟩

/-- `WRB IBUF[<a>], <b>` -/
def hostWRB (a : Word) (b : Byte) : Turn := .host ⟨.ibuf, a, true, .byte, zext32 b⟩

/-- `RDB <space>[<a>]` -/
def hostRDB (x : Space) (a : Word) : Turn := .host ⟨x, a, false, .byte, 0#32⟩

/-- `CMD <mnemonic>`: the same as `WR CMD, zext_32(OP)`. -/
def hostCMD (i : Instr) : Turn := hostWR .cmd (encode i)

/-- `WAIT`: `k` reads of STATUS with BUSY = 1, the completion, and the read that returns BUSY = 0 (R57, R107). -/
def hostWAIT (k : Nat) : List Turn := List.replicate k (hostRD .status) ++ [.engine, hostRD .status]

/-- `RUN <mnemonic>`: `CMD <mnemonic>` ; `WAIT`. -/
def hostRUN (i : Instr) (k : Nat) : List Turn := hostCMD i :: hostWAIT k

/-- `LOAD IBUF[<a>], <b0> <b1> ...` -/
def hostLOAD (a : Word) : List Byte → List Turn
  | [] => []
  | b :: bs => hostWRB a b :: hostLOAD (a + 1#32) bs

/-- `DUMP <space>[<a>:<a+n>)` -/
def hostDUMP (x : Space) (a : Word) : Nat → List Turn
  | 0 => []
  | n + 1 => hostRDB x a :: hostDUMP x (a + 1#32) n

end Sys2Proof.Machine
end

