-- ==== Sys2Proof/Tests/Slice0.lean ====
section
/-!
SUPPORT. Checks of the model's author: ill-formed terms that the checks refuse, command words written out bit by bit,
single steps whose results come from spec/95_test_vectors.md, and for every statement with hypotheses a state that
meets them (witness_<Name>).
-/
namespace Sys2Proof.Tests

open Sys2Proof Sys2Proof.Machine

/-! ### States the tests start from -/

/-- Reset with `P_BUF_BYTES = 64` and `P_LENGTH_CHECK = TOLERATE`, the test vectors' configuration. -/
def tolerant : State := { State.reset with config := .tolerate, capacity := 64#32 }

/-- The same under STRICT. -/
def strict : State := { tolerant with config := .strict }

/-- IBUF[0:n) holds `bs` and ARG_LEN is `n`. -/
def withInput (bs : List Byte) (s : State) : State :=
  { s with ibuf := Memory.writeBytes [] 0 bs, argLen := BitVec.ofNat 32 bs.length }

/-- The word `w` is latched and the ENGINE has the next turn. -/
def inFlight (w : Word) (s : State) : State := { s with cmdl := w, busy := true, schedule := [.engine] }

/-- One access is the next turn. -/
def hostNext (a : Access) (s : State) : State := { s with schedule := [.host a] }

/-- The state an outcome answers. -/
def answer : Host.Outcome State Fault Refusal → Option State
  | .next s => some s
  | _ => none

/-- The "IEND" frame of vector V7. -/
def iend : List Byte := [0x00#8, 0x00#8, 0x00#8, 0x00#8, 0x49#8, 0x45#8, 0x4E#8, 0x44#8, 0xAE#8, 0x42#8, 0x60#8, 0x82#8]

/-- The frame of vector V9: "Rust", payload "hi". -/
def rustHi : List Byte :=
  [0x00#8, 0x00#8, 0x00#8, 0x02#8, 0x52#8, 0x75#8, 0x73#8, 0x74#8, 0x68#8, 0x69#8, 0x72#8, 0x8E#8, 0x90#8, 0x4D#8]

/-- The frame of vector V13: declared length 5, no payload. -/
def wrongLength : List Byte :=
  [0x00#8, 0x00#8, 0x00#8, 0x05#8, 0x49#8, 0x45#8, 0x4E#8, 0x44#8, 0xAE#8, 0x42#8, 0x60#8, 0x82#8]

/-- "123456789" -/
def digits : List Byte := [0x31#8, 0x32#8, 0x33#8, 0x34#8, 0x35#8, 0x36#8, 0x37#8, 0x38#8, 0x39#8]

/-- The state after the decode of V9, idle. -/
def holdsRust : State :=
  { tolerant with
    argLen := 14#32, ibuf := Memory.writeBytes [] 0 rustHi, cmdl := 0x21#32, chunkValid := true,
    cLength := 2#32, cType := 0x52757374#32, cCrc := 0x728E904D#32, cPcount := 2#32,
    pbuf := [(0, 0x68#8), (1, 0x69#8)] }

/-- The state after the encode that follows, idle. -/
def encodedRust : State := { holdsRust with obuf := Memory.writeBytes [] 0 rustHi, oCount := 14#32, cmdl := 0x22#32 }

/-! ### WellFormed: what each check refuses -/

theorem test_reserved_bits_refused : WellFormed.reservedClear 0x00000121#32 = false := by decide

theorem test_reserved_bits_word_refused : WellFormed.commandWord 0x00000121#32 = false := by decide

theorem test_reserved_opcode_refused : WellFormed.opAssigned 0x00000012#32 = false := by decide

theorem test_zero_word_refused : WellFormed.commandWord 0#32 = false := by decide

theorem test_buffer_too_small_refused : WellFormed.bufBytes 11#32 = false := by decide

theorem test_buffer_too_large_refused : WellFormed.bufBytes 0xFFFFFFF4#32 = false := by decide

theorem test_buffer_bounds_accepted :
    WellFormed.bufBytes 12#32 = true ∧ WellFormed.bufBytes 0xFFFFFFF3#32 = true := by decide

theorem test_instructions_wellFormed : Instr.tagLoad.wellFormed = true := by decide

/-! ### Decode: the words of spec/30_encoding.md R50, R51, bit by bit -/

theorem test_decode_tagLoad : decode 0b00000000000000000000000000000001#32 = .ok .tagLoad := by decide

theorem test_decode_tagLoadStr : decode 0b00000000000000000000000000000010#32 = .ok .tagLoadStr := by decide

theorem test_decode_tagFromChunk : decode 0b00000000000000000000000000000011#32 = .ok .tagFromChunk := by decide

theorem test_decode_crcInit : decode 0b00000000000000000000000000010000#32 = .ok .crcInit := by decide

theorem test_decode_crcUpdate : decode 0b00000000000000000000000000010001#32 = .ok .crcUpdate := by decide

theorem test_decode_chunkBuild : decode 0b00000000000000000000000000100000#32 = .ok .chunkBuild := by decide

theorem test_decode_chunkDecode : decode 0b00000000000000000000000000100001#32 = .ok .chunkDecode := by decide

theorem test_decode_chunkEncode : decode 0b00000000000000000000000000100010#32 = .ok .chunkEncode := by decide

/-- Both reasons a word is refused by name (R52). -/
theorem test_decode_refuses :
    decode 0x00000121#32 = .error .reservedBitsSet ∧ decode 0x00000023#32 = .error .reservedOpcode := by decide

theorem test_decodeTableWord : decodeTableWord 32 0x21 = some .chunkDecode ∧ decodeTableWord 32 0x121 = none := by decide

/-- Every command runs as the first step after reset, whatever the implementation's parameters are. -/
theorem test_every_command_runs_from_reset :
    (answer (step (State.reset.withFetchWord 32 0x01))).isSome = true ∧
    (answer (step (State.reset.withFetchWord 32 0x02))).isSome = true ∧
    (answer (step (State.reset.withFetchWord 32 0x03))).isSome = true ∧
    (answer (step (State.reset.withFetchWord 32 0x10))).isSome = true ∧
    (answer (step (State.reset.withFetchWord 32 0x11))).isSome = true ∧
    (answer (step (State.reset.withFetchWord 32 0x20))).isSome = true ∧
    (answer (step (State.reset.withFetchWord 32 0x21))).isSome = true ∧
    (answer (step (State.reset.withFetchWord 32 0x22))).isSome = true :=
  ⟨rfl, rfl, rfl, rfl, rfl, rfl, rfl, rfl⟩

/-! ### One step each: rows of spec/95_test_vectors.md section 2 -/

/-- Section 2.1: TAG_LOAD of "RuSt". -/
theorem test_tagLoad_RuSt :
    (answer (step (inFlight 0x01#32 { tolerant with tagin := 0x52755374#32 }))).map
      (fun t => (statusWord t, t.tag, tagqOf t.tag)) = some (0#32, 0x52755374#32, 0x3B#32) := by decide

/-- Section 2.1: of "Ru1t", after a load of "RuSt": the old tag stays. -/
theorem test_tagLoad_keeps_old_tag :
    (answer (step (inFlight 0x01#32 { tolerant with tagin := 0x52753174#32, tag := 0x52755374#32 }))).map
      (fun t => (statusWord t, t.errInfo0, t.tag)) = some (2#32, 0x00000231#32, 0x52755374#32) := by decide

/-- Section 2.1: TAG_LOAD_STR of "Rust". -/
theorem test_tagLoadStr_Rust :
    (answer (step (inFlight 0x02#32 (withInput [0x52#8, 0x75#8, 0x73#8, 0x74#8] tolerant)))).map
      (fun t => (statusWord t, t.tag, tagqOf t.tag)) = some (0#32, 0x52757374#32, 0x13#32) := by decide

/-- Section 2.1: a count of 65 with IBUF unwritten is INVALID_LENGTH, not RANGE. -/
theorem test_tagLoadStr_long :
    (answer (step (inFlight 0x02#32 { tolerant with argLen := 65#32 }))).map
      (fun t => (statusWord t, t.errInfo0)) = some (3#32, 0x41#32) := by decide

/-- Section 2.1: TAG_FROM_CHUNK at reset. -/
theorem test_tagFromChunk_none :
    (answer (step (inFlight 0x03#32 tolerant))).map (fun t => (statusWord t, t.errInfo0, t.tag)) =
      some (0x0000000B#32, 0#32, 0#32) := by decide

/-- Section 2.1, TAGQ of "Rust", through the chunk of V9. -/
theorem test_tagFromChunk_Rust :
    (answer (step (inFlight 0x03#32 holdsRust))).map (fun t => (statusWord t, t.tag, tagqOf t.tag)) =
      some (0x00000200#32, 0x52757374#32, 0x13#32) := by decide

/-- spec/41_crc_generator.md R74's example. -/
theorem test_crcInit :
    (answer (step (inFlight 0x10#32 { tolerant with crcState := 0x12345678#32 }))).map
      (fun t => (t.crcState, crcValue t)) = some (0xFFFFFFFF#32, 0#32) := by decide

/-- Section 2.2: CRC_UPDATE over "123456789" from reset. -/
theorem test_crcUpdate_check_value :
    (answer (step (inFlight 0x11#32 (withInput digits tolerant)))).map (fun t => (t.crcState, crcValue t, t.err)) =
      some (0x340BC6D9#32, 0xCBF43926#32, 0#4) := by decide +kernel

/-- Section 2.2: 65 bytes is RANGE and leaves CRC_STATE. -/
theorem test_crcUpdate_range :
    (answer (step (inFlight 0x11#32 { tolerant with argLen := 65#32, crcState := 0x340BC6D9#32 }))).map
      (fun t => (t.crcState, t.err, t.errInfo0, t.errInfo1)) =
      some (0x340BC6D9#32, 9#4, 0x41#32, 0x40#32) := by decide

/-- Section 2.3: CHUNK_BUILD of "Rust", "hi". -/
theorem test_chunkBuild_Rust :
    (answer (step (inFlight 0x20#32 (withInput [0x68#8, 0x69#8] { tolerant with tag := 0x52757374#32 })))).map
      (fun t => (statusWord t, t.cCrc, t.cPcount, t.pbuf.bytes 0 2)) =
      some (0x00000200#32, 0x728E904D#32, 2#32, some [0x68#8, 0x69#8]) := by decide +kernel

/-- Section 2.3: RANGE comes before NO_TAG. -/
theorem test_chunkBuild_range_first :
    (answer (step (inFlight 0x20#32 { tolerant with argLen := 65#32 }))).map
      (fun t => (statusWord t, t.errInfo0, t.errInfo1)) = some (9#32, 0x41#32, 0x40#32) := by decide

/-- Section 2.3, V13 under TOLERATE: the declared length is kept beside the payload count. -/
theorem test_chunkDecode_V13_tolerate :
    (answer (step (inFlight 0x21#32 (withInput wrongLength tolerant)))).map
      (fun t => (statusWord t, t.cLength, t.cPcount, t.cType, t.cCrc)) =
      some (0x00000200#32, 5#32, 0#32, 0x49454E44#32, 0xAE426082#32) := by decide +kernel

/-- Section 2.3, V13 under STRICT. -/
theorem test_chunkDecode_V13_strict :
    (answer (step (inFlight 0x21#32 (withInput wrongLength strict)))).map
      (fun t => (statusWord t, t.errInfo0, t.errInfo1)) = some (6#32, 5#32, 0#32) := by decide

/-- Section 2.3: CHUNK_ENCODE after V9. -/
theorem test_chunkEncode_V9 :
    (answer (step (inFlight 0x22#32 holdsRust))).map
      (fun t => (statusWord t, t.oCount, t.obuf.bytes 0 14)) = some (0x00000200#32, 14#32, some rustHi) := by decide

/-- Section 2.3: CHUNK_ENCODE at reset. -/
theorem test_chunkEncode_none :
    (answer (step (inFlight 0x22#32 tolerant))).map (fun t => (statusWord t, t.oCount)) =
      some (0x0000000B#32, 0#32) := by decide

/-- Section 2.4: the stray word 0x00000121 is reported whole. -/
theorem test_illegal_word :
    (answer (step (inFlight 0x00000121#32 tolerant))).map (fun t => (statusWord t, t.errInfo0)) =
      some (8#32, 0x121#32) := by decide

/-- Section 2.5: the nine host faults the spec lists. -/
theorem test_host_faults :
    (([⟨.reg, 0x04#32, false, .byte, 0#32⟩, ⟨.reg, 0x06#32, false, .word, 0#32⟩, ⟨.reg, 0x40#32, false, .word, 0#32⟩,
       ⟨.reg, 0x04#32, true, .word, 0#32⟩, ⟨.pbuf, 0#32, true, .byte, 0#32⟩, ⟨.ibuf, 0#32, false, .word, 0#32⟩,
       ⟨.ibuf, 64#32, false, .byte, 0#32⟩] : List Access).all fun a => (hostFaultOf tolerant a).isSome) = true ∧
    (([⟨.reg, 0x10#32, false, .word, 0#32⟩, ⟨.reg, 0x08#32, true, .word, 0#32⟩] : List Access).all
      fun a => (hostFaultOf { tolerant with busy := true } a).isSome) = true := by decide

/-- Section 3, P2's trace: the address and data of each form. -/
theorem test_host_forms :
    hostCMD .chunkDecode = .host ⟨.reg, 0x00#32, true, .word, 0x00000021#32⟩ ∧
    hostRD .tagq = .host ⟨.reg, 0x14#32, false, .word, 0#32⟩ ∧
    hostWR .argLen 12#32 = .host ⟨.reg, 0x08#32, true, .word, 0x0000000C#32⟩ ∧
    hostLOAD 4#32 [0x49#8, 0x45#8] =
      [.host ⟨.ibuf, 4#32, true, .byte, 0x49#32⟩, .host ⟨.ibuf, 5#32, true, .byte, 0x45#32⟩] := by decide

/-! ### Witnesses: states that meet each statement's hypotheses -/

theorem witness_DecodeAndEncodeAgree :
    (∃ i : Instr, i.wellFormed = true) ∧ ∃ (w : Word) (i : Instr), decode w = .ok i :=
  ⟨⟨.tagLoad, rfl⟩, 0x21#32, .chunkDecode, by decide⟩

/-- Each clause of `IllegalWord` at its bounds, and the two words beside them that are no illegal words. -/
theorem witness_IllegalWordCompletesWithIllegalCmd :
    EngineIsNext (inFlight 0x00000100#32 tolerant) ∧
    ([0x00000100#32, 0xFFFFFF01#32, 0x00#32, 0x04#32, 0x0F#32, 0x12#32, 0x1F#32, 0x23#32, 0xFF#32].all
      fun w => decide (IllegalWord w)) = true ∧
    ([0x01#32, 0x02#32, 0x03#32, 0x10#32, 0x11#32, 0x20#32, 0x21#32, 0x22#32].all
      fun w => decide (¬ IllegalWord w)) = true := by decide

theorem witness_EngineStepRunsLatchedCommand :
    EngineIsNext (inFlight 0x22#32 tolerant) ∧ decode (inFlight 0x22#32 tolerant).cmdl = .ok .chunkEncode := by
  decide

/-- The other form of the hypothesis: no turn left. -/
theorem witness_EngineIsNext_no_turn_left : EngineIsNext { tolerant with busy := true } := by decide

theorem witness_EngineHasNoStepWhenIdle :
    ({ tolerant with schedule := [.engine] }.busy = false ∧ { tolerant with schedule := [.engine] }.schedule = .engine :: []) ∧
    tolerant.busy = false ∧ tolerant.schedule = [] := by decide

theorem witness_EveryCompletionEnds : EngineIsNext (inFlight 0xFFFFFFFF#32 tolerant) := by decide

theorem witness_CmdWriteIssuesCommand :
    (hostNext ⟨.reg, 0x00#32, true, .word, 0x21#32⟩ tolerant).busy = false ∧
    (hostNext ⟨.reg, 0x00#32, true, .word, 0x21#32⟩ { tolerant with busy := true }).busy = true ∧
    (hostNext ⟨.reg, 0x00#32, true, .word, 0x21#32⟩ tolerant).schedule =
      .host ⟨.reg, 0x00#32, true, .word, 0x21#32⟩ :: [] := by decide

theorem witness_BusyEndsWithinTheSchedule : (inFlight 0x21#32 tolerant).busy = true := by decide

/-- Each case of R95 at its bounds, with BUSY = 0 for (a) to (d) and BUSY = 1 for (e). -/
theorem witness_HostFaultSetsMarkAndLeavesBlock :
    (([⟨.reg, 0x04#32, false, .byte, 0#32⟩, ⟨.reg, 0x05#32, false, .word, 0#32⟩, ⟨.reg, 0x40#32, false, .word, 0#32⟩,
       ⟨.reg, 0x04#32, true, .word, 0#32⟩, ⟨.reg, 0x3C#32, true, .word, 0#32⟩,
       ⟨.ibuf, 0#32, true, .word, 0#32⟩, ⟨.ibuf, 64#32, true, .byte, 0#32⟩, ⟨.pbuf, 64#32, false, .byte, 0#32⟩,
       ⟨.obuf, 76#32, false, .byte, 0#32⟩, ⟨.pbuf, 0#32, true, .byte, 0#32⟩, ⟨.obuf, 75#32, true, .byte, 0#32⟩] :
        List Access).all fun a => decide (BreaksProtocol tolerant a)) = true ∧
    (([⟨.reg, 0x00#32, true, .word, 0#32⟩, ⟨.reg, 0x04#32, true, .word, 0#32⟩, ⟨.ibuf, 0#32, false, .byte, 0#32⟩] :
        List Access).all fun a => decide (BreaksProtocol { tolerant with busy := true } a)) = true ∧
    ∃ s t : State, step s = .next t ∧ s.faultMark = true := by
  refine ⟨by decide, by decide, { tolerant with faultMark := true, schedule := [.reset] }, _, rfl, rfl⟩

/-- Accesses at the bounds that break no rule. -/
theorem witness_DefinedAccessSetsNoFaultMark :
    (([⟨.reg, 0x00#32, true, .word, 0#32⟩, ⟨.reg, 0x0C#32, true, .word, 0#32⟩, ⟨.reg, 0x3C#32, false, .word, 0#32⟩,
       ⟨.ibuf, 63#32, true, .byte, 0#32⟩, ⟨.pbuf, 63#32, false, .byte, 0#32⟩, ⟨.obuf, 75#32, false, .byte, 0#32⟩] :
        List Access).all fun a => decide (¬ BreaksProtocol tolerant a)) = true ∧
    ¬ BreaksProtocol { tolerant with busy := true } ⟨.reg, 0x04#32, false, .word, 0#32⟩ := by decide

/-- The first and the last register. -/
theorem witness_RegisterReadReturnsRegister :
    (hostNext ⟨.reg, 0x3C#32, false, .word, 0#32⟩ tolerant).busy = false ∧
    (0x3C#32, 64#32) ∈ [(0x00#32, 0#32), (0x3C#32, tolerant.capacity)] ∧
    (0x00#32, 0#32) ∈ [(0x00#32, 0#32), (0x3C#32, tolerant.capacity)] := by decide

theorem witness_BusyStatusReadShowsPreviousResult :
    (hostNext ⟨.reg, 0x04#32, false, .word, 0#32⟩ { tolerant with busy := true, err := 4#4 }).busy = true ∧
    (hostNext ⟨.reg, 0x04#32, false, .word, 0#32⟩ { tolerant with busy := true, err := 4#4 }).schedule =
      .host ⟨.reg, 0x04#32, false, .word, 0#32⟩ :: [] := by decide

theorem witness_OperandWriteStoresValue :
    (hostNext ⟨.reg, 0x08#32, true, .word, 0xFFFFFFFF#32⟩ tolerant).busy = false ∧
    (hostNext ⟨.reg, 0x08#32, true, .word, 0xFFFFFFFF#32⟩ tolerant).schedule =
      .host ⟨.reg, 0x08#32, true, .word, 0xFFFFFFFF#32⟩ :: [] ∧
    (hostNext ⟨.reg, 0x0C#32, true, .word, 0x52755374#32⟩ tolerant).schedule =
      .host ⟨.reg, 0x0C#32, true, .word, 0x52755374#32⟩ :: [] := by decide

/-- The last byte of IBUF. -/
theorem witness_IbufWriteThenReadReturnsByte :
    ∃ (s : State) (off v d : Word) (ts : List Turn), s.busy = false ∧ off.toNat < s.capacity.toNat ∧
      s.schedule = .host ⟨.ibuf, off, true, .byte, v⟩ :: .host ⟨.ibuf, off, false, .byte, d⟩ :: ts :=
  ⟨{ tolerant with schedule := [hostWRB 63#32 0xA5#8, hostRDB .ibuf 63#32] }, 63#32, 0xA5#32, 0#32, [],
    by decide⟩

/-- A held byte of each buffer: the last of the payload, and the last serialized one. -/
theorem witness_BufferReadReturnsHeldByte :
    encodedRust.busy = false ∧ (0 < spaceSize encodedRust .ibuf ∧ encodedRust.ibuf.read 0 = some 0x00#8) ∧
    (1 < spaceSize encodedRust .pbuf ∧ 1 < encodedRust.cPcount.toNat ∧ encodedRust.pbuf.read 1 = some 0x69#8) ∧
    (13 < spaceSize encodedRust .obuf ∧ 13 < encodedRust.oCount.toNat ∧ encodedRust.obuf.read 13 = some 0x4D#8) := by
  decide

theorem witness_HostReadsHaveNoSideEffect :
    ∃ (s : State) (a : Access) (ts : List Turn), a.write = false ∧ s.schedule = .host a :: ts :=
  ⟨hostNext ⟨.reg, 0x04#32, false, .word, 0#32⟩ tolerant, _, _, rfl, rfl⟩

/-- A write to ARG_LEN after the completion, before STATUS is polled; and the poll. -/
theorem witness_EarlyAccessIsMarked :
    (∃ (s : State) (a : Access) (ts : List Turn), s.schedule = .host a :: ts ∧ s.unread = true ∧
      ¬ BreaksProtocol s a ∧ ¬ IsStatusRead a) ∧
    ∃ (s : State) (a : Access) (ts : List Turn), s.schedule = .host a :: ts ∧ s.busy = false ∧ IsStatusRead a :=
  ⟨⟨{ tolerant with unread := true, schedule := [hostWR .argLen 4#32] }, _, _, rfl, rfl, by decide,
      by decide⟩,
    ⟨hostNext ⟨.reg, 0x04#32, false, .word, 0#32⟩ tolerant, _, _, rfl, rfl, by decide⟩⟩

/-- Section 2.5's reset while BUSY = 1. -/
theorem witness_ResetStepSetsResetValues :
    { inFlight 0x21#32 (withInput iend tolerant) with schedule := [.reset] }.schedule = .reset :: [] := rfl

/-- Every clause: four letters at the ends of both ranges, and a first bad byte at each index. -/
theorem witness_TagLoadLoadsOrReportsFirstBadByte :
    AllLetters 0x415A617A#32 ∧ FirstNonLetter 0x405B607B#32 0 ∧ FirstNonLetter 0x415B607B#32 1 ∧
    FirstNonLetter 0x415A607B#32 2 ∧ FirstNonLetter 0x415A617B#32 3 := by decide

theorem witness_TagLoadStrLoadsOrReports :
    { tolerant with argLen := 3#32 }.argLen ≠ 4#32 ∧ { tolerant with argLen := 5#32 }.argLen ≠ 4#32 ∧
    { tolerant with argLen := 4#32 }.argLen = 4#32 ∧ AllLetters (0x52#8 ++ 0x75#8 ++ 0x73#8 ++ 0x74#8) ∧
    FirstNonLetter (0x52#8 ++ 0x75#8 ++ 0x31#8 ++ 0x74#8) 2 := by decide

theorem witness_TagLoadStrLoadsWrittenString :
    ∃ (s : State) (b0 b1 b2 b3 : Byte), s.argLen = 4#32 ∧ s.ibuf.bytes 0 4 = some [b0, b1, b2, b3] ∧
      IsLetter b0 ∧ IsLetter b1 ∧ IsLetter b2 ∧ IsLetter b3 :=
  ⟨withInput [0x52#8, 0x75#8, 0x73#8, 0x74#8] tolerant, 0x52#8, 0x75#8, 0x73#8, 0x74#8, rfl, rfl, by decide⟩

theorem witness_TagFromChunkCopiesType : holdsRust.chunkValid = true ∧ tolerant.chunkValid = false := by decide

theorem witness_TagCommandsFrame :
    ∃ (i : Instr) (s t : State), i ∈ [Instr.tagLoad, Instr.tagLoadStr, Instr.tagFromChunk] ∧ exec i s = .next t :=
  ⟨.tagLoad, { tolerant with tagin := 0x52755374#32 }, _, by decide, rfl⟩

theorem witness_OneByteChangeChangesCrc : (0x49#8 : Byte) ≠ 0x69#8 := by decide

/-- CRC_UPDATE, CHUNK_BUILD and CHUNK_DECODE at the bound of R75, R81, R82: 64 bytes are in range, 65 are not. -/
theorem witness_CrcUpdateFoldsInput :
    { tolerant with argLen := 65#32 }.capacity.toNat < { tolerant with argLen := 65#32 }.argLen.toNat ∧
    { tolerant with argLen := 64#32 }.argLen.toNat ≤ { tolerant with argLen := 64#32 }.capacity.toNat := by decide

/-- Section 2.2's incremental rows: "1234", then "56789". -/
theorem witness_CrcOfPiecesIsCrcOfWhole :
    ∃ (s t u : State) (x y : List Byte),
      (∃ s', exec .crcInit s = .next s' ∧ s'.crcState = t.crcState) ∧
      t.argLen.toNat ≤ t.capacity.toNat ∧ t.ibuf.bytes 0 t.argLen.toNat = some x ∧
      u.argLen.toNat ≤ u.capacity.toNat ∧ u.ibuf.bytes 0 u.argLen.toNat = some y ∧
      ∃ t', exec .crcUpdate t = .next t' ∧ t'.crcState = u.crcState :=
  ⟨tolerant, withInput [0x31#8, 0x32#8, 0x33#8, 0x34#8] tolerant,
    withInput [0x35#8, 0x36#8, 0x37#8, 0x38#8, 0x39#8] { tolerant with crcState := 0x641C1F5C#32 }, _, _,
    ⟨_, rfl, rfl⟩, by decide, rfl, by decide, rfl, ⟨_, rfl, by decide +kernel⟩⟩

theorem witness_CrcCommandsFrame :
    ∃ (i : Instr) (s t : State), i ∈ [Instr.crcInit, Instr.crcUpdate] ∧ exec i s = .next t :=
  ⟨.crcUpdate, withInput digits tolerant, _, by decide, rfl⟩

/-- The three clauses: 65 bytes; no tag; a tag and `P_BUF_BYTES` bytes. -/
theorem witness_ChunkBuildBuildsRecord :
    { tolerant with argLen := 65#32 }.capacity.toNat < { tolerant with argLen := 65#32 }.argLen.toNat ∧
    (tolerant.argLen.toNat ≤ tolerant.capacity.toNat ∧ ¬ AllLetters tolerant.tag) ∧
    ({ tolerant with argLen := 64#32, tag := 0x52755374#32 }.argLen.toNat ≤
        { tolerant with argLen := 64#32, tag := 0x52755374#32 }.capacity.toNat ∧
      AllLetters { tolerant with argLen := 64#32, tag := 0x52755374#32 }.tag) := by decide

/-- The counts 65, 11 and 12; the frames' clauses at the bytes of V10 (bad tag byte), V13 (wrong length, under STRICT and
under TOLERATE), V12 (wrong CRC) and V7 (accepted). -/
theorem witness_ChunkDecodeValidatesFrame :
    (tolerant.capacity.toNat < (65#32 : Word).toNat ∧ (11#32 : Word).toNat < 12 ∧ 12 ≤ (12#32 : Word).toNat ∧
      (12#32 : Word).toNat ≤ tolerant.capacity.toNat) ∧
    FirstNonLetter (wordOf [0x00#8, 0x00#8, 0x00#8, 0x00#8, 0x49#8, 0x45#8, 0x4E#8, 0x31#8] 4) 3 ∧
    (AllLetters (wordOf wrongLength 4) ∧ strict.config = .strict ∧ wordOf wrongLength 0 ≠ 12#32 - 12#32) ∧
    ¬ (tolerant.config = .strict ∧ wordOf wrongLength 0 ≠ 12#32 - 12#32) ∧
    crc32 (bebytes 0x49454E44#32 ++ (iend.drop 8).take (12 - 12)) ≠ 0xAE426083#32 ∧
    crc32 (bebytes (wordOf iend 4) ++ (iend.drop 8).take (12 - 12)) = wordOf iend (12 - 4) := by decide +kernel

/-- V7 under STRICT, and V13, with its wrong length, under TOLERATE. -/
theorem witness_ChunkDecodeAcceptsWrittenFrame :
    (∃ (s : State) (len tag : Word) (p : List Byte), s.argLen.toNat = 12 + p.length ∧
      s.argLen.toNat ≤ s.capacity.toNat ∧ AllLetters tag ∧ s.config = .strict ∧ len.toNat = p.length ∧
      s.ibuf.bytes 0 s.argLen.toNat =
        some (bebytes len ++ bebytes tag ++ p ++ bebytes (crc32 (bebytes tag ++ p)))) ∧
    ∃ (s : State) (len tag : Word) (p : List Byte), s.argLen.toNat = 12 + p.length ∧
      s.argLen.toNat ≤ s.capacity.toNat ∧ AllLetters tag ∧ s.config = .tolerate ∧ len.toNat ≠ p.length ∧
      s.ibuf.bytes 0 s.argLen.toNat =
        some (bebytes len ++ bebytes tag ++ p ++ bebytes (crc32 (bebytes tag ++ p))) :=
  ⟨⟨withInput iend strict, 0#32, 0x49454E44#32, [], by decide, by decide, by decide, rfl, rfl, by decide +kernel⟩,
    ⟨withInput wrongLength tolerant, 5#32, 0x49454E44#32, [], by decide, by decide, by decide, rfl, by decide,
      by decide +kernel⟩⟩

theorem witness_ChunkEncodeSerializesRecord : tolerant.chunkValid = false ∧ holdsRust.chunkValid = true := by decide

theorem witness_ChunkWritersFrame :
    (∃ s t : State, exec .chunkBuild s = .next t) ∧ ∃ s t : State, exec .chunkDecode s = .next t :=
  ⟨⟨withInput [0x68#8, 0x69#8] { tolerant with tag := 0x52757374#32 }, _, rfl⟩, withInput rustHi tolerant, _, rfl⟩

theorem witness_ChunkEncodeFrame : ∃ s t : State, exec .chunkEncode s = .next t := ⟨holdsRust, _, rfl⟩

theorem witness_FailedCommandChangesOnlyResult :
    ∃ s t : State, EngineIsNext s ∧ step s = .next t ∧ t.err ≠ 0#4 :=
  ⟨inFlight 0x20#32 tolerant, _, by decide, rfl, by decide⟩

theorem witness_SuccessClearsErrorInfo :
    ∃ s t : State, EngineIsNext s ∧ step s = .next t ∧ t.err = 0#4 :=
  ⟨inFlight 0x22#32 holdsRust, _, by decide, rfl, by decide⟩

/-- A state with a chunk held and serialized meets the block's invariant. -/
theorem encodedRust_inv : BlockInv encodedRust where
  params := by decide
  err := by decide
  tags := by decide
  buffers := by decide
  chunk := ⟨fun _ => ⟨⟨[0x68#8, 0x69#8], by decide, by decide +kernel⟩, by decide, by decide⟩,
    fun h => absurd h (by decide)⟩
  output := ⟨⟨rustHi, by decide⟩, by decide⟩

/-- The same with a new command in flight. -/
theorem encodedRust_inFlight_inv : BlockInv (inFlight 0x21#32 encodedRust) :=
  ⟨encodedRust_inv.params, encodedRust_inv.err, encodedRust_inv.tags, encodedRust_inv.buffers, encodedRust_inv.chunk,
    encodedRust_inv.output⟩

theorem witness_EveryStepKeepsBlockInvariant : ∃ s t : State, BlockInv s ∧ step s = .next t :=
  ⟨inFlight 0x21#32 encodedRust, _, encodedRust_inFlight_inv, rfl⟩

theorem witness_UnusedErrValuesNeverWritten : ∃ s t : State, ErrOk s ∧ step s = .next t :=
  ⟨inFlight 0x21#32 encodedRust, _, encodedRust_inv.err, rfl⟩

theorem witness_TagsStayConstructible : ∃ s t : State, TagsOk s ∧ step s = .next t :=
  ⟨inFlight 0x03#32 encodedRust, _, encodedRust_inv.tags, rfl⟩

theorem witness_BuffersStayCanonical :
    ∃ s t : State, s.ibuf.wf = true ∧ s.pbuf.wf = true ∧ s.obuf.wf = true ∧ step s = .next t :=
  ⟨inFlight 0x22#32 encodedRust, _, by decide, by decide, by decide, rfl⟩

theorem witness_OnlyResetClearsChunkValid :
    ∃ s t : State, step s = .next t ∧ s.chunkValid = true ∧ s.schedule.head? ≠ some .reset :=
  ⟨inFlight 0x20#32 holdsRust, _, rfl, rfl, by decide⟩

/-- Each clause: a step that changes TAG, one that changes CRC_STATE, one the chunk record, one OBUF. -/
theorem witness_OnlyNamedCommandsWriteResults :
    (∃ s t : State, step s = .next t ∧ s.schedule.head? ≠ some .reset ∧ t.tag ≠ s.tag) ∧
    (∃ s t : State, step s = .next t ∧ s.schedule.head? ≠ some .reset ∧ t.crcState ≠ s.crcState) ∧
    (∃ s t : State, step s = .next t ∧ s.schedule.head? ≠ some .reset ∧ t.cLength ≠ s.cLength) ∧
    ∃ s t : State, step s = .next t ∧ s.schedule.head? ≠ some .reset ∧ t.oCount ≠ s.oCount :=
  ⟨⟨inFlight 0x01#32 { tolerant with tagin := 0x52755374#32 }, _, rfl, by decide, by decide⟩,
    ⟨inFlight 0x11#32 (withInput digits tolerant), _, rfl, by decide, by decide +kernel⟩,
    ⟨inFlight 0x21#32 (withInput wrongLength tolerant), _, rfl, by decide, by decide +kernel⟩,
    ⟨inFlight 0x22#32 holdsRust, _, rfl, by decide, by decide⟩⟩

theorem witness_CommandsLeaveOperandsAlone : ∃ s t : State, EngineIsNext s ∧ step s = .next t :=
  ⟨inFlight 0x21#32 (withInput iend tolerant), _, by decide, rfl⟩

theorem witness_ParametersNeverChange : ∃ s t : State, step s = .next t :=
  ⟨{ strict with schedule := [.reset] }, _, rfl⟩

/-- The largest payload the law allows for 64 bytes of IBUF is 52; P6's payload "hi" meets it too. -/
theorem witness_BuildEncodeDecodeRoundTrip :
    ∃ (s : State) (p : List Byte), ParamsOk s ∧ AllLetters s.tag ∧ s.argLen.toNat + 12 ≤ s.capacity.toNat ∧
      s.ibuf.bytes 0 s.argLen.toNat = some p :=
  ⟨withInput (List.replicate 52 0x68#8) { strict with tag := 0x52757374#32 }, _, by decide, by decide,
    by decide, rfl⟩

/-- V13 under TOLERATE: a frame whose declared length is wrong is accepted. -/
theorem witness_DecodeThenEncodeRewritesFrame :
    ∃ (s t : State) (f : List Byte), ParamsOk s ∧ s.ibuf.bytes 0 s.argLen.toNat = some f ∧
      exec .chunkDecode s = .next t ∧ t.err = 0#4 :=
  ⟨withInput wrongLength tolerant, _, _, by decide, rfl, rfl, by decide +kernel⟩

/-- CHUNK_DECODE accepts the written frame `f`. -/
def Accepts (s : State) (f : List Byte) : Prop :=
  s.ibuf.bytes 0 s.argLen.toNat = some f ∧ ∃ t, exec .chunkDecode s = .next t ∧ t.err = 0#4

/-- V7 is accepted under both configurations, V9 under TOLERATE; and bytes at both ends of every clause's range in them.
Length field: 0 and 3. Tag: 4 and 7, where bit 6 leaves no letter and bit 5 does (V4). From 8 on: the payload's 8 and 9,
the CRC field's 10 and 13, and in a frame with no payload the CRC field's 8 and 11. -/
theorem witness_SingleBitTamperOutcomes :
    (Accepts (withInput iend tolerant) iend ∧ (withInput iend tolerant).config = .tolerate) ∧
    (Accepts (withInput iend strict) iend ∧ (withInput iend strict).config = .strict) ∧
    Accepts (withInput rustHi tolerant) rustHi ∧
    (iend[0]? = some 0x00#8 ∧ iend[3]? = some 0x00#8) ∧
    (iend[4]? = some 0x49#8 ∧ ¬ IsLetter (0x49#8 ^^^ (1#8 <<< 6)) ∧ IsLetter (0x49#8 ^^^ (1#8 <<< 5))) ∧
    (iend[7]? = some 0x44#8 ∧ ¬ IsLetter (0x44#8 ^^^ (1#8 <<< 6)) ∧ IsLetter (0x44#8 ^^^ (1#8 <<< 5))) ∧
    (rustHi[8]? = some 0x68#8 ∧ rustHi[9]? = some 0x69#8 ∧ rustHi[10]? = some 0x72#8 ∧ rustHi[13]? = some 0x4D#8) ∧
    iend[8]? = some 0xAE#8 ∧ iend[11]? = some 0x82#8 :=
  ⟨⟨⟨rfl, _, rfl, by decide +kernel⟩, rfl⟩, ⟨⟨rfl, _, rfl, by decide +kernel⟩, rfl⟩, ⟨rfl, _, rfl, by decide +kernel⟩,
    ⟨rfl, rfl⟩, ⟨rfl, by decide, by decide⟩, ⟨rfl, by decide, by decide⟩, ⟨rfl, rfl, rfl, rfl⟩, rfl, rfl⟩

end Sys2Proof.Tests
end

section
/-!
PROOFS. The family of spec/10_state.md: what each kind of step leaves alone, the rule that carries a property over every
step, and with it the block's invariant and the sole writers of its registers.
-/
namespace Sys2Proof.Machine

/-! ### What a HOST step leaves alone -/

/-- What a write may store, seen on the block: operand registers, the latch with BUSY, and IBUF (R36, R37). -/
theorem storeData_frame (s : State) (a : Access) :
    blockOf (storeData s a) = blockOf { s with
      argLen := (storeData s a).argLen, tagin := (storeData s a).tagin, cmdl := (storeData s a).cmdl,
      busy := (storeData s a).busy, ibuf := (storeData s a).ibuf } := by
  rcases storeData_cases s a with h | h | h | h | ⟨-, h⟩ <;> rw [h]
  rfl

/-- A HOST step changes of the block only operand registers, the latch with BUSY, and IBUF (R35 to R37, R95). -/
theorem hostAccess_frame (a : Access) (s : State) :
    blockOf (hostAccess a s) = blockOf { s with
      argLen := (hostAccess a s).argLen, tagin := (hostAccess a s).tagin, cmdl := (hostAccess a s).cmdl,
      busy := (hostAccess a s).busy, ibuf := (hostAccess a s).ibuf } := by
  rcases hostAccess_cases a s with ⟨-, h⟩ | ⟨-, -, h⟩ | ⟨-, -, h⟩ <;> rw [h]
  · rfl
  · rw [blockOf_hostWrite, storeData_frame]
    rfl
  · rfl

section HostFields

variable (a : Access) (s : State)

@[simp] theorem hostAccess_err : (hostAccess a s).err = s.err := (congrArg State.err (hostAccess_frame a s) :)
@[simp] theorem hostAccess_chunkValid : (hostAccess a s).chunkValid = s.chunkValid :=
  (congrArg State.chunkValid (hostAccess_frame a s) :)
@[simp] theorem hostAccess_tag : (hostAccess a s).tag = s.tag := (congrArg State.tag (hostAccess_frame a s) :)
@[simp] theorem hostAccess_crcState : (hostAccess a s).crcState = s.crcState :=
  (congrArg State.crcState (hostAccess_frame a s) :)
@[simp] theorem hostAccess_cLength : (hostAccess a s).cLength = s.cLength :=
  (congrArg State.cLength (hostAccess_frame a s) :)
@[simp] theorem hostAccess_cType : (hostAccess a s).cType = s.cType := (congrArg State.cType (hostAccess_frame a s) :)
@[simp] theorem hostAccess_cCrc : (hostAccess a s).cCrc = s.cCrc := (congrArg State.cCrc (hostAccess_frame a s) :)
@[simp] theorem hostAccess_cPcount : (hostAccess a s).cPcount = s.cPcount :=
  (congrArg State.cPcount (hostAccess_frame a s) :)
@[simp] theorem hostAccess_oCount : (hostAccess a s).oCount = s.oCount :=
  (congrArg State.oCount (hostAccess_frame a s) :)
@[simp] theorem hostAccess_config : (hostAccess a s).config = s.config :=
  (congrArg State.config (hostAccess_frame a s) :)
@[simp] theorem hostAccess_capacity : (hostAccess a s).capacity = s.capacity :=
  (congrArg State.capacity (hostAccess_frame a s) :)
@[simp] theorem hostAccess_pbuf : (hostAccess a s).pbuf = s.pbuf := (congrArg State.pbuf (hostAccess_frame a s) :)
@[simp] theorem hostAccess_obuf : (hostAccess a s).obuf = s.obuf := (congrArg State.obuf (hostAccess_frame a s) :)

end HostFields

/-- A write the block takes stores in IBUF one byte inside the buffer, or nothing there (R37, R95 c). -/
theorem storeData_ibuf_cases {s : State} {a : Access} (h : ¬ BreaksProtocol s a) :
    (storeData s a).ibuf = s.ibuf ∨
      ∃ off b, off < s.capacity.toNat ∧ (storeData s a).ibuf = s.ibuf.write off b := by
  rcases storeData_cases s a with he | he | he | he | ⟨hx, he⟩ <;> rw [he]
  · exact .inl rfl
  · exact .inl rfl
  · exact .inl rfl
  · exact .inl rfl
  · have hoff : a.off.toNat < s.capacity.toNat := by
      by_contra hge
      exact h (.inr (.inr (.inl ⟨by simp [hx], .inr (by simpa [hx, spaceSize] using hge)⟩)))
    exact .inr ⟨a.off.toNat, a.wdata.setWidth 8, hoff, rfl⟩

/-- A HOST step writes at most one byte of IBUF, inside the buffer. -/
theorem hostAccess_ibuf_cases (a : Access) (s : State) :
    (hostAccess a s).ibuf = s.ibuf ∨
      ∃ off b, off < s.capacity.toNat ∧ (hostAccess a s).ibuf = s.ibuf.write off b := by
  rcases hostAccess_cases a s with ⟨-, h⟩ | ⟨hf, -, h⟩ | ⟨-, -, h⟩ <;> rw [h]
  · exact .inl rfl
  · have hok : ¬ BreaksProtocol (trackPoll (isStatusRead a) s) a := by
      have hiff : BreaksProtocol (trackPoll (isStatusRead a) s) a ↔ BreaksProtocol s a := by
        cases a with | mk x _ _ _ _ => cases x <;> rfl
      rw [hiff, ← hostFaultOf_isSome, hf]
      simp
    exact storeData_ibuf_cases hok
  · exact .inl rfl

/-! ### A property over every step -/

/-- The rule of invariants: what HOST steps, resets and command effects keep, and neither the turns to come nor BUSY
decide, every step keeps. An illegal word ends as any failing command does (R52, R91). -/
theorem step_keeps {P : State → Prop} (hsched : ∀ ts s, P s → P (setSchedule ts s))
    (hbusy : ∀ s, P s → P (clearBusy s)) (hhost : ∀ a s, P s → P (hostAccess a s))
    (hreset : ∀ s, P s → P (resetBlock s)) (heffect : ∀ {i s t}, Effect i s t → P s → P t)
    {s t : State} (hs : P s) (h : step s = .next t) : P t := by
  cases step_next_cases h with
  | idle => exact hs
  | host a ts => exact hhost a _ (hsched ts s hs)
  | reset ts => exact hreset _ (hsched ts s hs)
  | illegal =>
    exact hbusy _ (heffect (effect_failed_plain .tagLoad _ .illegalCmd _ _ (by simp)) (hsched _ s hs))
  | command i u _ _ he => exact hbusy _ (heffect (exec_effect he) (hsched _ s hs))

/-! ### What a command's effect keeps -/

theorem effect_config {i : Instr} {s t : State} (h : Effect i s t) : t.config = s.config := by
  cases h <;> simp

theorem effect_capacity {i : Instr} {s t : State} (h : Effect i s t) : t.capacity = s.capacity := by
  cases h <;> simp

theorem effect_operands {i : Instr} {s t : State} (h : Effect i s t) :
    t.argLen = s.argLen ∧ t.tagin = s.tagin ∧ t.ibuf = s.ibuf ∧ t.cmdl = s.cmdl := by
  cases h <;> simp

theorem errorCode_used (e : ErrorKind) (he : e ≠ .lengthOverflow) :
    errorCode e ≠ 5#4 ∧ errorCode e ≠ 7#4 ∧ errorCode e ≠ 12#4 ∧ errorCode e ≠ 13#4 ∧ errorCode e ≠ 14#4 ∧
      errorCode e ≠ 15#4 := by
  revert he
  cases e <;> decide

theorem effect_errOk {i : Instr} {s t : State} (h : Effect i s t) : ErrOk t := by
  cases h with
  | failed e i0 i1 k he => exact errorCode_used e he
  | tag | crc | chunk | output => simp [ErrOk]

theorem effect_tagsOk {i : Instr} {s t : State} (h : Effect i s t) (hs : TagsOk s) : TagsOk t := by
  obtain ⟨htag, htype⟩ := hs
  cases h with
  | failed | crc | output => exact ⟨htag, htype⟩
  | tag t k hi ht =>
    refine ⟨.inr ?_, htype⟩
    rcases ht with ht | ⟨hv, rfl⟩
    · exact ht
    · exact htype hv
  | chunk len t n p k hi ht => exact ⟨htag, fun _ => ht⟩

/-- The size of a serialized record does not wrap (R1, R26). -/
theorem twelve_add_toNat {n c : Word} (hc : WellFormed.bufBytes c = true) (hn : n.toNat ≤ c.toNat) :
    (12#32 + n).toNat = 12 + n.toNat := by
  have hmax := ((bufBytes_bounds c).1 hc).2
  rw [BitVec.toNat_add]
  simp only [BitVec.toNat_ofNat]
  omega

theorem effect_buffersOk {i : Instr} {s t : State} (h : Effect i s t) (hchunk : ChunkOk s) (hs : BuffersOk s) :
    BuffersOk t := by
  obtain ⟨hin, ⟨hpwf, hpbelow⟩, howf, hobelow⟩ := hs
  cases h with
  | failed | tag | crc => exact ⟨hin, ⟨hpwf, hpbelow⟩, howf, hobelow⟩
  | chunk len t n p k hi ht hp hn =>
    exact ⟨hin, ⟨wf_writeBytes 0 p hpwf, below_writeBytes 0 p (by simpa [hp] using hn) hpbelow⟩, howf, hobelow⟩
  | output p k hi hv hp =>
    obtain ⟨-, hcount, -⟩ := hchunk.1 hv
    refine ⟨hin, ⟨hpwf, hpbelow⟩, wf_writeBytes 0 _ howf, below_writeBytes 0 _ ?_ hobelow⟩
    rw [frameBytes_length]
    show 0 + (12 + p.length) ≤ s.capacity.toNat + 12
    omega

theorem effect_chunkOk {i : Instr} {s t : State} (h : Effect i s t) (hs : ChunkOk s) : ChunkOk t := by
  cases h with
  | failed | tag | crc | output => exact hs
  | chunk len t n p k hi ht hp hn hl =>
    refine ⟨fun _ => ⟨⟨p, ?_, rfl⟩, hn, fun hstrict => hl (.inr hstrict)⟩, fun hv => ?_⟩
    · show (s.pbuf.writeBytes 0 p).bytes 0 n.toNat = some p
      rw [← hp]
      exact bytes_writeBytes s.pbuf 0 p
    · simp at hv

theorem effect_outputOk {i : Instr} {s t : State} (h : Effect i s t) (hparams : ParamsOk s) (hchunk : ChunkOk s)
    (hs : OutputOk s) : OutputOk t := by
  cases h with
  | failed | tag | crc | chunk => exact hs
  | output p k hi hv hp =>
    obtain ⟨-, hcount, -⟩ := hchunk.1 hv
    have hsize := twelve_add_toNat hparams hcount
    constructor
    · refine ⟨frameBytes s.cLength s.cType s.cCrc p, ?_⟩
      show (s.obuf.writeBytes 0 (frameBytes s.cLength s.cType s.cCrc p)).bytes 0 (12#32 + s.cPcount).toNat = _
      rw [hsize, ← hp, ← frameBytes_length s.cLength s.cType s.cCrc p]
      exact bytes_writeBytes _ 0 _
    · show (12#32 + s.cPcount).toNat ≤ s.capacity.toNat + 12
      omega

theorem effect_blockInv {i : Instr} {s t : State} (h : Effect i s t) (hs : BlockInv s) : BlockInv t where
  params  := by rw [ParamsOk, effect_capacity h]; exact hs.params
  err     := effect_errOk h
  tags    := effect_tagsOk h hs.tags
  buffers := effect_buffersOk h hs.chunk hs.buffers
  chunk   := effect_chunkOk h hs.chunk
  output  := effect_outputOk h hs.params hs.chunk hs.output

/-! ### The block's invariant over HOST steps and resets -/

theorem hostAccess_tagsOk (a : Access) {s : State} (hs : TagsOk s) : TagsOk (hostAccess a s) := by
  simpa [TagsOk] using hs

theorem hostAccess_buffersOk (a : Access) {s : State} (hs : BuffersOk s) : BuffersOk (hostAccess a s) := by
  obtain ⟨⟨hwf, hbelow⟩, hrest⟩ := hs
  refine ⟨?_, by simpa using hrest⟩
  rw [hostAccess_capacity]
  rcases hostAccess_ibuf_cases a s with h | ⟨off, b, hoff, h⟩ <;> rw [h]
  · exact ⟨hwf, hbelow⟩
  · exact ⟨wf_write off b hwf, below_write off b hoff hbelow⟩

theorem hostAccess_blockInv (a : Access) {s : State} (hs : BlockInv s) : BlockInv (hostAccess a s) where
  params  := by simpa [ParamsOk] using hs.params
  err     := by simpa [ErrOk] using hs.err
  tags    := hostAccess_tagsOk a hs.tags
  buffers := hostAccess_buffersOk a hs.buffers
  chunk   := by simpa [ChunkOk] using hs.chunk
  output  := by simpa [OutputOk] using hs.output

theorem resetBlock_tagsOk (s : State) : TagsOk (resetBlock s) := by simp [TagsOk]

/-- A reset keeps only the parameters' part of the invariant and makes the rest of it true (R102). -/
theorem resetBlock_blockInv {s : State} (hs : BlockInv s) : BlockInv (resetBlock s) where
  params  := hs.params
  err     := by simp [ErrOk]
  tags    := resetBlock_tagsOk s
  buffers := by simp [BuffersOk, Memory.wf, Memory.risingFrom, Memory.below]
  chunk   := by simp [ChunkOk]
  output  := by simp [OutputOk, Memory.bytes]

theorem setSchedule_blockInv (ts : List Turn) {s : State} (hs : BlockInv s) : BlockInv (setSchedule ts s) :=
  ⟨hs.params, hs.err, hs.tags, hs.buffers, hs.chunk, hs.output⟩

theorem clearBusy_blockInv {s : State} (hs : BlockInv s) : BlockInv (clearBusy s) :=
  ⟨hs.params, hs.err, hs.tags, hs.buffers, hs.chunk, hs.output⟩

/-- Settles O44: HOST steps, resets and the effect of every command keep the invariant. -/
theorem everyStepKeepsBlockInvariant : Obligations.EveryStepKeepsBlockInvariant := by
  intro s t hs h
  exact step_keeps (P := BlockInv) (fun ts _ => setSchedule_blockInv ts) (fun _ => clearBusy_blockInv)
    (fun a _ => hostAccess_blockInv a) (fun _ => resetBlock_blockInv) effect_blockInv hs h

/-- Settles O47: a tag load loads letters or the type of a held chunk, and a chunk record's type is letters. -/
theorem tagsStayConstructible : Obligations.TagsStayConstructible := by
  intro s t hs h
  exact step_keeps (P := TagsOk) (fun _ _ hs => hs) (fun _ hs => hs) (fun a _ => hostAccess_tagsOk a)
    (fun s _ => resetBlock_tagsOk s) effect_tagsOk hs h

/-! ### The parameters and the operands -/

/-- The parameters are those of `s`. -/
def SameParams (s u : State) : Prop := u.config = s.config ∧ u.capacity = s.capacity

theorem effect_sameParams {i : Instr} {s u t : State} (h : Effect i u t) (hu : SameParams s u) : SameParams s t :=
  ⟨(effect_config h).trans hu.1, (effect_capacity h).trans hu.2⟩

/-- Settles O52: no kind of step writes CONFIG or CAPACITY. -/
theorem parametersNeverChange : Obligations.ParametersNeverChange := by
  intro s t h
  exact step_keeps (P := SameParams s) (fun _ _ hu => hu) (fun _ hu => hu)
    (fun a u hu => by simpa [SameParams] using hu) (fun _ hu => hu) effect_sameParams ⟨rfl, rfl⟩ h

/-- The ENGINE's step is a failure, or the effect of the command whose word is latched (R56). -/
theorem engine_step_cases {s t : State} (hn : EngineIsNext s) (h : step s = .next t) :
    t = clearBusy (raise .illegalCmd s.cmdl 0#32 (setSchedule s.schedule.tail s)) ∨
      ∃ i u, decode s.cmdl = .ok i ∧ Effect i (setSchedule s.schedule.tail s) u ∧ t = clearBusy u := by
  obtain ⟨hb, hsched⟩ := hn
  cases step_next_cases h with
  | idle _ hb' => simp [hb] at hb'
  | host a ts hs => simp [hs] at hsched
  | reset ts hs => simp [hs] at hsched
  | illegal => exact .inl rfl
  | command i u _ hd he => exact .inr ⟨i, u, hd, exec_effect he, rfl⟩

/-- Settles O51: no command's effect, and no failure, writes an operand register, IBUF or the latch. -/
theorem commandsLeaveOperandsAlone : Obligations.CommandsLeaveOperandsAlone := by
  intro s t hn h
  rcases engine_step_cases hn h with rfl | ⟨i, u, -, he, rfl⟩
  · simp
  · simpa using effect_operands he

/-! ### Who writes the results -/

/-- The OP values name their commands one to one (R51). -/
theorem decodeOp_eq_some {op : BitVec 8} {i : Instr} (h : decodeOp op = some i) : op = opcodeOf i := by
  revert op i
  decide

/-- A word decodes only to the command it is the encoding of (R50, R51). -/
theorem eq_encode_of_decode {w : Word} {i : Instr} (h : decode w = .ok i) : w = encode i := by
  have hw : reservedField w ++ opField w = w :=
    (BitVec.extractLsb'_append_extractLsb'_eq_extractLsb' rfl).trans BitVec.extractLsb'_eq_self
  unfold decode at h
  split at h
  · next hr =>
    split at h
    · next j hop =>
      obtain rfl : j = i := by simpa using h
      rw [← hw, hr, decodeOp_eq_some hop, encode]
    · cases h
  · cases h

/-- TAG, CRC_STATE, the chunk record with PBUF, and OBUF with O_COUNT are those of `s`. -/
structure SameResults (s t : State) : Prop where
  tag      : t.tag = s.tag
  crcState : t.crcState = s.crcState
  record   : t.cLength = s.cLength ∧ t.cType = s.cType ∧ t.cCrc = s.cCrc ∧ t.cPcount = s.cPcount ∧ t.pbuf = s.pbuf
  output   : t.obuf = s.obuf ∧ t.oCount = s.oCount

theorem sameResults_hostAccess (a : Access) (ts : List Turn) (s : State) :
    SameResults s (hostAccess a (setSchedule ts s)) := by
  constructor <;> simp

/-- A step that is no reset leaves the results alone or is the completion of a command. -/
theorem step_sameResults_or_command {s t : State} (h : step s = .next t) (hr : s.schedule.head? ≠ some .reset) :
    SameResults s t ∨ ∃ i u, EngineIsNext s ∧ s.cmdl = encode i ∧ Effect i (setSchedule s.schedule.tail s) u ∧
      t = clearBusy u := by
  cases step_next_cases h with
  | idle => exact .inl ⟨rfl, rfl, by simp, by simp⟩
  | host a ts => exact .inl (sameResults_hostAccess a ts s)
  | reset ts hs => simp [hs] at hr
  | illegal => exact .inl ⟨rfl, rfl, by simp, by simp⟩
  | command i u hn hd he => exact .inr ⟨i, u, hn, eq_encode_of_decode hd, exec_effect he, rfl⟩

/-- A command's effect writes the results only as R16, R20, section 8 and R26 allow. -/
structure WritesOwnResults (i : Instr) (s t : State) : Prop where
  tag : t.tag ≠ s.tag → t.err = 0#4 ∧ (i = .tagLoad ∨ i = .tagLoadStr ∨ i = .tagFromChunk)
  crcState : t.crcState ≠ s.crcState → t.err = 0#4 ∧ (i = .crcInit ∨ i = .crcUpdate)
  record : t.cLength ≠ s.cLength ∨ t.cType ≠ s.cType ∨ t.cCrc ≠ s.cCrc ∨ t.cPcount ≠ s.cPcount ∨ t.pbuf ≠ s.pbuf →
    t.err = 0#4 ∧ (i = .chunkBuild ∨ i = .chunkDecode)
  output : t.obuf ≠ s.obuf ∨ t.oCount ≠ s.oCount → t.err = 0#4 ∧ i = .chunkEncode

theorem effect_writesOwnResults {i : Instr} {s t : State} (h : Effect i s t) : WritesOwnResults i s t := by
  cases h with
  | failed => constructor <;> simp
  | tag t k hi => constructor <;> simp [hi]
  | crc c k hi => constructor <;> simp [hi]
  | chunk len t n p k hi => constructor <;> simp [hi]
  | output p k hi => constructor <;> simp [hi]

/-- Settles O50: only a command's effect writes a result, and each kind of effect writes its own. -/
theorem onlyNamedCommandsWriteResults : Obligations.OnlyNamedCommandsWriteResults := by
  intro s t h hr
  rcases step_sameResults_or_command h hr with ⟨htag, hcrc, hrecord, hout⟩ | ⟨i, u, hn, hcmd, he, rfl⟩
  · simp [htag, hcrc, hrecord, hout]
  · obtain ⟨htag, hcrc, hrecord, hout⟩ := effect_writesOwnResults he
    rw [hcmd]
    refine ⟨fun hne => ?_, fun hne => ?_, fun hne => ?_, fun hne => ?_⟩
    · obtain ⟨herr, rfl | rfl | rfl⟩ := htag hne <;> exact ⟨hn, herr, by decide⟩
    · obtain ⟨herr, rfl | rfl⟩ := hcrc hne <;> exact ⟨hn, herr, by decide⟩
    · obtain ⟨herr, rfl | rfl⟩ := hrecord hne <;> exact ⟨hn, herr, by decide⟩
    · obtain ⟨herr, rfl⟩ := hout hne
      exact ⟨hn, herr, by decide⟩

/-! ### Reads of the registers -/

/-- STATUS as the concatenation of its fields (R13): the widths add to 32 and the reserved bits are 0. -/
theorem statusWord_eq_fields (s : State) :
    statusWord s = 0#22 ++ BitVec.ofBool s.chunkValid ++ BitVec.ofBool s.busy ++ 0#4 ++ s.err := by
  unfold statusWord
  generalize s.err = e, s.busy = b, s.chunkValid = v
  revert e b v
  decide

theorem configWord_eq_ite (c : LengthCheck) : configWord c = if c = .strict then 1#32 else 0#32 := by
  cases c <;> rfl

/-- What a read of a register returns does not depend on the turns to come or on R106's interval. -/
theorem readReg_trackPoll_setSchedule (b : Bool) (ts : List Turn) (s : State) (r : Reg) :
    readReg (trackPoll b (setSchedule ts s)) r = readReg s r := by
  cases r <;> rfl

/-- A 4-byte read of a register while BUSY = 0 breaks no rule of the port (R36, R95). -/
theorem not_breaksProtocol_readReg {s : State} (hb : s.busy = false) (r : Reg) (d : Word) :
    ¬ BreaksProtocol s ⟨.reg, regOff r, false, .word, d⟩ := by
  obtain ⟨h4, h40⟩ := (regAt_isSome (regOff r)).1 (by simp)
  simp [BreaksProtocol, hb, h4, h40]

/-- A register read while BUSY = 0 answers the register and changes nothing of the block (R36, R43). -/
theorem step_readReg {s : State} {ts : List Turn} (r : Reg) {d : Word} (hb : s.busy = false)
    (hs : s.schedule = .host ⟨.reg, regOff r, false, .word, d⟩ :: ts) :
    ∃ t, step s = .next t ∧ t.response = some ⟨readReg s r, false⟩ ∧ blockOf t = blockOf s ∧
      t.faultMark = s.faultMark ∧ t.schedule = ts := by
  refine ⟨_, step_host hs, ?_⟩
  rw [hostAccess_read (not_breaksProtocol_readReg (s := setSchedule ts s) hb r d) rfl]
  refine ⟨?_, by simp, rfl, rfl⟩
  rw [hostRead, readData_reg, readReg_trackPoll_setSchedule]
  rfl

/-- STATUS while no command is in flight, as the obligation writes it. -/
theorem statusWord_of_idle {s : State} (hb : s.busy = false) :
    statusWord s = 0#22 ++ BitVec.ofBool s.chunkValid ++ 0#1 ++ 0#4 ++ s.err := by
  rw [statusWord_eq_fields, hb]
  rfl

/-- Settles O12: the sixteen entries are the register map, and a read of a register answers it. -/
theorem registerReadReturnsRegister : Obligations.RegisterReadReturnsRegister := by
  intro s ts off v d hb hs hmem
  rw [← statusWord_of_idle hb, ← configWord_eq_ite] at hmem
  have hmap : (off, v) ∈ regMap.map fun r => (regOff r, readReg s r) := hmem
  obtain ⟨r, -, hr⟩ := List.mem_map.1 hmap
  obtain ⟨rfl, rfl⟩ := Prod.mk.inj hr
  obtain ⟨t, hstep, hresp, hrest⟩ := step_readReg r hb hs
  exact ⟨t, _, hstep, hresp, rfl, hrest⟩

/-! ### TAGQ -/

/-- The word with one bit has that bit at its position and 0 elsewhere. -/
theorem getLsbD_bitAt {n : Nat} (hn : n < 32) (b : Bool) (j : Nat) :
    (bitAt n b).getLsbD j = (decide (j = n) && b) := by
  by_cases hj : j = n
  · subst hj
    simp [bitAt, hn]
  · have hne : j < n ∨ j - n ≠ 0 := by omega
    rcases hne with hlt | hne
    · simp [bitAt, hlt, hj]
    · simp [bitAt, BitVec.getLsbD_ofBool, hne, hj]

/-- Bit `j` of TAGQ: the six queries at their positions (R17, R65), and 0 above. -/
theorem getLsbD_tagqOf (r : Word) (j : Nat) :
    (tagqOf r).getLsbD j =
      (decide (j = 0) && letters r || decide (j = 1) && isCritical r || decide (j = 2) && isPublic r ||
        decide (j = 3) && isReservedOk r || decide (j = 4) && isSafeToCopy r || decide (j = 5) && isValid r) := by
  simp [tagqOf, getLsbD_bitAt]

/-- Settles O23: each bit of TAGQ is its query. -/
theorem tagqBitsFollowTag : Obligations.TagqBitsFollowTag := by
  refine ⟨fun r => ⟨?_, ?_, ?_, ?_, ?_, ?_, fun n hn => ?_⟩, by decide⟩ <;> rw [getLsbD_tagqOf]
  · simp [letters_eq_true]
  · simp [isCritical]
  · simp [isPublic]
  · simp [isReservedOk]
  · simp [isSafeToCopy]
  · simp [isValid, isReservedOk, letters_eq_true]
  · have hne : ∀ k, k < 6 → n ≠ k := fun k hk => by omega
    simp [hne]

end Sys2Proof.Machine
end

section
/-!
PROOFS. The family of spec/20_memory.md: what a taken read answers and a taken write stores, each said once for the step
of any access, and that every step keeps the buffers' canonical form.
-/
namespace Sys2Proof.Machine

/-! ### What an access does apart from the model's own fields -/

@[simp] theorem storeData_faultMark (s : State) (a : Access) : (storeData s a).faultMark = s.faultMark := by
  rcases storeData_cases s a with h | h | h | h | ⟨-, h⟩ <;> simp [h]

@[simp] theorem storeData_schedule (s : State) (a : Access) : (storeData s a).schedule = s.schedule := by
  rcases storeData_cases s a with h | h | h | h | ⟨-, h⟩ <;> simp [h]

/-- What a write stores in the block is decided by the block. -/
theorem blockOf_storeData_blockOf (s : State) (a : Access) :
    blockOf (storeData (blockOf s) a) = blockOf (storeData s a) := by
  obtain ⟨x, off, w, z, v⟩ := a
  cases x with
  | ibuf | pbuf | obuf => rfl
  | reg =>
    simp only [storeData]
    cases regAt off with
    | none => rfl
    | some r => cases r <;> rfl

/-- What a read answers does not depend on the turns to come or on R106's interval. -/
theorem readData_trackPoll_setSchedule (b : Bool) (ts : List Turn) (s : State) (a : Access) :
    readData (trackPoll b (setSchedule ts s)) a = readData s a := by
  obtain ⟨x, off, w, z, v⟩ := a
  cases x with
  | ibuf | pbuf | obuf => rfl
  | reg =>
    simp only [readData, funext (readReg_trackPoll_setSchedule b ts s)]
    rfl

/-! ### The step of a taken access -/

/-- The step of a read the block takes (R35 to R37, R43). -/
theorem step_takenRead {s : State} {a : Access} {ts : List Turn} (hs : s.schedule = .host a :: ts)
    (h : ¬ BreaksProtocol s a) (hw : a.write = false) :
    ∃ t, step s = .next t ∧ t.response = some ⟨(readData s a).1, false⟩ ∧ blockOf t = blockOf s ∧
      t.faultMark = s.faultMark ∧ t.schedule = ts := by
  rw [← breaksProtocol_setSchedule ts] at h
  refine ⟨_, step_host hs, ?_⟩
  rw [hostAccess_read h hw]
  refine ⟨?_, by simp, rfl, rfl⟩
  rw [hostRead, readData_trackPoll_setSchedule]
  rfl

/-- The step of a write the block takes (R35 to R37). -/
theorem step_takenWrite {s : State} {a : Access} {ts : List Turn} (hs : s.schedule = .host a :: ts)
    (h : ¬ BreaksProtocol s a) (hw : a.write = true) :
    ∃ t, step s = .next t ∧ blockOf t = blockOf (storeData s a) ∧ t.faultMark = s.faultMark ∧ t.schedule = ts := by
  rw [← breaksProtocol_setSchedule ts] at h
  refine ⟨_, step_host hs, ?_⟩
  rw [hostAccess_write h hw]
  refine ⟨?_, by simp [hostWrite], by simp [hostWrite]⟩
  rw [blockOf_hostWrite, ← blockOf_storeData_blockOf, blockOf_trackPoll, blockOf_setSchedule,
    blockOf_storeData_blockOf]

/-- Settles O11: a taken access is a read or a write, and neither touches the FAULT mark. -/
theorem definedAccessSetsNoFaultMark : Obligations.DefinedAccessSetsNoFaultMark := by
  intro s a ts hs h
  cases hw : a.write with
  | false =>
    obtain ⟨t, hstep, -, -, hrest⟩ := step_takenRead hs h hw
    exact ⟨t, hstep, hrest⟩
  | true =>
    obtain ⟨t, hstep, -, hrest⟩ := step_takenWrite hs h hw
    exact ⟨t, hstep, hrest⟩

/-- Settles O17: a read is a host fault or is taken, and either way the block stays as it was. -/
theorem hostReadsHaveNoSideEffect : Obligations.HostReadsHaveNoSideEffect := by
  intro s a ts hw hs
  refine ⟨_, step_host hs, ?_⟩
  rcases hostAccess_cases a (setSchedule ts s) with ⟨-, h⟩ | ⟨-, hw', -⟩ | ⟨-, -, h⟩
  · simp [h]
  · simp [hw] at hw'
  · simp [h]

/-! ### Operand writes -/

/-- A 4-byte write to a writable register while BUSY = 0 breaks no rule of the port (R36, R95). -/
theorem not_breaksProtocol_writeReg {s : State} (hb : s.busy = false) {r : Reg} (hr : regWritable r = true) (v : Word) :
    ¬ BreaksProtocol s ⟨.reg, regOff r, true, .word, v⟩ := by
  rcases (regWritable_iff r).1 hr with h | h | h <;> simp [BreaksProtocol, hb, h]

/-- The step of a write to a writable register while BUSY = 0 (R36). -/
theorem step_writeReg {s : State} {ts : List Turn} {r : Reg} {v : Word} (hb : s.busy = false)
    (hr : regWritable r = true) (hs : s.schedule = .host ⟨.reg, regOff r, true, .word, v⟩ :: ts) :
    ∃ t, step s = .next t ∧ blockOf t = blockOf (writeReg s r v) ∧ t.faultMark = s.faultMark := by
  obtain ⟨t, hstep, hblock, hmark, -⟩ := step_takenWrite hs (not_breaksProtocol_writeReg hb hr v) rfl
  rw [storeData_reg] at hblock
  exact ⟨t, hstep, hblock, hmark⟩

/-- Settles O14: the two operand registers are writable, and `writeReg` stores their value. -/
theorem operandWriteStoresValue : Obligations.OperandWriteStoresValue := by
  intro s v ts hb
  exact ⟨fun hs => step_writeReg (r := .argLen) hb rfl hs, fun hs => step_writeReg (r := .tagin) hb rfl hs⟩

/-! ### Buffer accesses -/

/-- A 1-byte access inside a buffer while BUSY = 0, a write in IBUF only, breaks no rule of the port (R37, R95). -/
theorem not_breaksProtocol_buffer {s : State} {x : Space} {off : Word} {w : Bool} (hb : s.busy = false)
    (hx : x ≠ .reg) (hoff : off.toNat < spaceSize s x) (hw : w = true → x = .ibuf) (d : Word) :
    ¬ BreaksProtocol s ⟨x, off, w, .byte, d⟩ := by
  have hend : ¬ spaceSize s x ≤ off.toNat := by omega
  simp only [BreaksProtocol, hb, hx, hend]
  cases w with
  | false => simp
  | true => simp [hw]

/-- What a read of a buffer byte answers: a byte, and the one held there where the spec says one is held
(R37, R39, R40). -/
theorem readData_buffer (s : State) {x : Space} (hx : x ≠ .reg) (off : Word) (w : Bool) (z : Size) (d : Word) :
    ∃ b, (readData s ⟨x, off, w, z, d⟩).1 = zext32 b ∧
      (x = .ibuf → ∀ v, s.ibuf.read off.toNat = some v → b = v) ∧
      (x = .pbuf → off.toNat < s.cPcount.toNat → ∀ v, s.pbuf.read off.toNat = some v → b = v) ∧
      (x = .obuf → off.toNat < s.oCount.toNat → ∀ v, s.obuf.read off.toNat = some v → b = v) := by
  cases x with
  | reg => exact absurd rfl hx
  | ibuf => exact ⟨_, rfl, fun _ v hv => readByte_of_read _ hv, by simp, by simp⟩
  | pbuf =>
    exact ⟨(readHeld s.pbuf s.draws s.cPcount.toNat off.toNat).1, rfl, by simp,
      fun _ hc v hv => by rw [readHeld_below _ hc hv], by simp⟩
  | obuf =>
    exact ⟨(readHeld s.obuf s.draws s.oCount.toNat off.toNat).1, rfl, by simp, by simp,
      fun _ hc v hv => by rw [readHeld_below _ hc hv]⟩

/-- Settles O16: the access is taken, and its answer is the buffer's. -/
theorem bufferReadReturnsHeldByte : Obligations.BufferReadReturnsHeldByte := by
  intro s x off d ts hb hx hoff hs
  obtain ⟨t, hstep, hresp, hblock, hmark, -⟩ :=
    step_takenRead hs (not_breaksProtocol_buffer hb hx hoff (by simp) d) rfl
  obtain ⟨b, hdata, hheld⟩ := readData_buffer s hx off false .byte d
  exact ⟨t, _, b, hstep, hresp, hdata, hblock, hmark, hheld⟩

/-- Settles O15: the write stores the byte and leaves the schedule at the read, which finds it there. -/
theorem ibufWriteThenReadReturnsByte : Obligations.IbufWriteThenReadReturnsByte := by
  intro s off v d ts hb hoff hs
  obtain ⟨t, hstep, hblock, hmark, hsched⟩ :=
    step_takenWrite hs (not_breaksProtocol_buffer hb (by simp) hoff (by simp) v) rfl
  rw [storeData_ibuf, BitVec.setWidth_eq_extractLsb' (by decide)] at hblock
  have hbusy : t.busy = false := (congrArg State.busy hblock :).trans hb
  have hcap : t.capacity = s.capacity := (congrArg State.capacity hblock :)
  have hibuf : t.ibuf = s.ibuf.write off.toNat (v.extractLsb' 0 8) := (congrArg State.ibuf hblock :)
  have hheld : t.ibuf.read off.toNat = some (v.extractLsb' 0 8) := by rw [hibuf, read_write_same]
  have hin : off.toNat < spaceSize t .ibuf := by rwa [← hcap] at hoff
  obtain ⟨u, hstep', hresp, hblock', hmark', -⟩ :=
    step_takenRead hsched (not_breaksProtocol_buffer hbusy (by simp) hin (by simp) d) rfl
  obtain ⟨b, hdata, hbyte, -⟩ := readData_buffer t (x := .ibuf) (by simp) off false .byte d
  have huibuf : u.ibuf = t.ibuf := (congrArg State.ibuf hblock' :)
  refine ⟨t, u, _, hstep, hstep', hresp, ?_, ?_, fun a ha => ?_, ?_, hmark'.trans hmark⟩
  · rw [hdata, hbyte rfl _ hheld]
  · rw [huibuf, hheld]
  · rw [huibuf, hibuf, read_write_other _ _ _ _ ha]
  · rw [hblock', hblock, huibuf, hibuf]

/-! ### The canonical form -/

/-- The three buffers list strictly rising offsets (log entry 6). -/
def BuffersCanonical (s : State) : Prop := s.ibuf.wf = true ∧ s.pbuf.wf = true ∧ s.obuf.wf = true

theorem hostAccess_buffersCanonical (a : Access) {s : State} (hs : BuffersCanonical s) :
    BuffersCanonical (hostAccess a s) := by
  obtain ⟨hi, hrest⟩ := hs
  refine ⟨?_, by simpa using hrest⟩
  rcases hostAccess_ibuf_cases a s with h | ⟨off, b, -, h⟩ <;> rw [h]
  · exact hi
  · exact wf_write off b hi

theorem effect_buffersCanonical {i : Instr} {s t : State} (h : Effect i s t) (hs : BuffersCanonical s) :
    BuffersCanonical t := by
  obtain ⟨hi, hp, ho⟩ := hs
  cases h with
  | failed | tag | crc => exact ⟨hi, hp, ho⟩
  | chunk => exact ⟨hi, wf_writeBytes 0 _ hp, ho⟩
  | output => exact ⟨hi, hp, wf_writeBytes 0 _ ho⟩

/-- Settles O48: an IBUF write, a chunk record and a serialization keep the form, and a reset empties the buffers. -/
theorem buffersStayCanonical : Obligations.BuffersStayCanonical := by
  intro s t hi hp ho h
  exact step_keeps (P := BuffersCanonical) (fun _ _ hs => hs) (fun _ hs => hs)
    (fun a _ => hostAccess_buffersCanonical a) (fun _ _ => ⟨rfl, rfl, rfl⟩) effect_buffersCanonical ⟨hi, hp, ho⟩ h

/-! ### The platform's addresses -/

/-- Settles O19: an offset is the system address less the base, and always a 32-bit one. -/
theorem systemAddressIsSpaceOffset : Obligations.SystemAddressIsSpaceOffset := by
  intro x off v w z
  simp [accessAtAddress, systemAddress, off.isLt]

end Sys2Proof.Machine
end

section
/-!
PROOFS. The family of spec/30_encoding.md: which words are commands, what the ENGINE's step makes of a latched word, how
a write to CMD issues one, and what each kind of command leaves alone.
-/
namespace Sys2Proof.Machine

/-! ### Decode and encode -/

/-- The facts about a command's word hold of every command. -/
theorem encoding_statement : ∀ i : Instr, Laws.Encoding.Statement i
  | .tagLoad => Laws.Encoding.tagLoad
  | .tagLoadStr => Laws.Encoding.tagLoadStr
  | .tagFromChunk => Laws.Encoding.tagFromChunk
  | .crcInit => Laws.Encoding.crcInit
  | .crcUpdate => Laws.Encoding.crcUpdate
  | .chunkBuild => Laws.Encoding.chunkBuild
  | .chunkDecode => Laws.Encoding.chunkDecode
  | .chunkEncode => Laws.Encoding.chunkEncode

theorem wellFormed_eq_true (i : Instr) : i.wellFormed = true := by cases i <;> rfl

/-- A word is a command exactly when RSVD is 0 and its OP is the command's (R50, R51). -/
theorem decode_eq_ok_iff (w : Word) (i : Instr) :
    decode w = .ok i ↔ reservedField w = 0#24 ∧ decodeOp (opField w) = some i := by
  unfold decode
  split
  · next hr => cases decodeOp (opField w) <;> simp [hr]
  · next hr => simp [hr]

theorem decode_encode (i : Instr) : decode (encode i) = .ok i := by
  obtain ⟨-, hr, ho⟩ := encoding_statement i (wellFormed_eq_true i)
  exact (decode_eq_ok_iff _ i).2 ⟨hr, ho⟩

/-- Settles O1: a command's word has the command's two fields, and the two fields are the whole word. -/
theorem decodeAndEncodeAgree : Obligations.DecodeAndEncodeAgree :=
  ⟨fun i _ => decode_encode i, fun _ _ => eq_encode_of_decode⟩

/-- Settles O2: the eight words are the encodings of the eight commands. -/
theorem opcodeMapWordsDecode : Obligations.OpcodeMapWordsDecode :=
  ⟨decode_encode .tagLoad, decode_encode .tagLoadStr, decode_encode .tagFromChunk, decode_encode .crcInit,
    decode_encode .crcUpdate, decode_encode .chunkBuild, decode_encode .chunkDecode, decode_encode .chunkEncode⟩

/-! ### Illegal words -/

/-- The OP values without a command are those R52 lists. -/
theorem decodeOp_eq_none_iff (op : BitVec 8) :
    decodeOp op = none ↔ op.toNat = 0x00 ∨ (0x04 ≤ op.toNat ∧ op.toNat ≤ 0x0F) ∨
      (0x12 ≤ op.toNat ∧ op.toNat ≤ 0x1F) ∨ 0x23 ≤ op.toNat := by
  revert op
  decide

/-- The words that stand for no command are R52's illegal words. -/
theorem illegalWord_iff (w : Word) : IllegalWord w ↔ ¬ ∃ i, decode w = .ok i := by
  have hop := decodeOp_eq_none_iff (opField w)
  unfold IllegalWord
  rw [← opField, ← hop, ← reservedField]
  simp only [decode_eq_ok_iff, exists_and_left, ← Option.isSome_iff_exists, not_and_or, Option.not_isSome_iff_eq_none,
    ne_eq]

/-! ### The ENGINE's step -/

/-- The completion of a command runs its rule and clears BUSY (R56). -/
theorem step_command {s : State} {i : Instr} (hn : EngineIsNext s) (hd : decode s.cmdl = .ok i) :
    step s = .next (clearBusy (nextOf i (setSchedule s.schedule.tail s))) := by
  rw [step_of_engineIsNext hn, complete_eq, setSchedule_cmdl, hd]

/-- The completion of an illegal word raises ILLEGAL_CMD of it and clears BUSY (R52, R56). -/
theorem step_illegal {s : State} (hn : EngineIsNext s) (hw : IllegalWord s.cmdl) :
    step s = .next (clearBusy (raise .illegalCmd s.cmdl 0#32 (setSchedule s.schedule.tail s))) := by
  rw [step_of_engineIsNext hn, complete_eq, setSchedule_cmdl]
  cases hd : decode s.cmdl with
  | error => rfl
  | ok i => exact absurd ⟨i, hd⟩ ((illegalWord_iff _).1 hw)

/-- Settles O3: a word is illegal exactly when it decodes to no command, and completes with ILLEGAL_CMD then. -/
theorem illegalWordCompletesWithIllegalCmd : Obligations.IllegalWordCompletesWithIllegalCmd :=
  ⟨fun _ hn hw => step_illegal hn hw, fun w hw => not_not.1 (mt (illegalWord_iff w).2 hw)⟩

/-- Settles O6: the latched word is illegal or a command, and either completion clears BUSY. -/
theorem everyCompletionEnds : Obligations.EveryCompletionEnds := by
  intro s hn
  by_cases hw : IllegalWord s.cmdl
  · exact ⟨_, step_illegal hn hw, rfl⟩
  · obtain ⟨i, hd⟩ := illegalWordCompletesWithIllegalCmd.2 s.cmdl hw
    exact ⟨_, step_command hn hd, rfl⟩

/-- Settles O4: `exec` answers the next state from which the completion clears BUSY. -/
theorem engineStepRunsLatchedCommand : Obligations.EngineStepRunsLatchedCommand := by
  intro s i hn hd
  rw [step_command hn hd, exec_eq_nextOf]
  rfl

/-- Settles O5: neither way into a completion is open while BUSY = 0. -/
theorem engineHasNoStepWhenIdle : Obligations.EngineHasNoStepWhenIdle := by
  constructor
  · intro s ts hb hs
    simp [step, takeTurn, engineTurn, hs, hb]
  · intro s hb hs
    simp [step, takeTurn, hs, hb]

/-- A placed 32-bit word is latched with the ENGINE's turn first (log entry 1). -/
theorem withFetchWord_toNat (s : State) (w : Word) :
    s.withFetchWord 32 w.toNat = setSchedule (.engine :: s.schedule) (latchCommand w s) := by
  rw [State.withFetchWord, Nat.mod_eq_of_lt w.isLt, BitVec.ofNat_toNat, BitVec.setWidth_eq, placeCommand]

/-- Settles O9: the placed word is the latched command, and the ENGINE is next. -/
theorem placedWordRunsNext : Obligations.PlacedWordRunsNext := by
  intro s i
  have hn : EngineIsNext (setSchedule (.engine :: s.schedule) (latchCommand (encode i) s)) := ⟨rfl, .inr rfl⟩
  rw [withFetchWord_toNat, step_command hn (decode_encode i), exec_eq_nextOf]
  rfl

/-! ### Issue -/

/-- Settles O7: the write is taken and latches its word, or BUSY = 1 makes it a host fault. -/
theorem cmdWriteIssuesCommand : Obligations.CmdWriteIssuesCommand := by
  intro s w ts hs
  constructor
  · intro hb
    obtain ⟨t, hstep, hblock, hmark, hsched⟩ :=
      step_takenWrite hs (not_breaksProtocol_writeReg (r := .cmd) hb rfl w) rfl
    replace hblock := hblock.trans (congrArg blockOf (storeData_reg s .cmd true .word w))
    exact ⟨t, hstep, hblock, hsched, hmark⟩
  · intro hb
    have hbreaks : BreaksProtocol (setSchedule ts s) ⟨.reg, 0x00#32, true, .word, w⟩ :=
      .inr (.inr (.inr (.inr ⟨hb, by simp [IsStatusRead]⟩)))
    refine ⟨_, step_host hs, ?_⟩
    rw [hostAccess_fault hbreaks]
    exact ⟨by simp, rfl, rfl⟩

/-! ### The frames of the commands -/

/-- Settles O28: a tag command fails or writes TAG; no other kind of effect is one of a tag command. -/
theorem tagCommandsFrame : Obligations.TagCommandsFrame := by
  intro i s t hi h
  cases exec_effect h with
  | failed | tag => exact ⟨rfl, fun _ => ⟨rfl, rfl, rfl⟩⟩
  | crc c k hcrc => rcases hcrc with rfl | rfl <;> simp at hi
  | chunk len t n p k hchunk => rcases hchunk with rfl | rfl <;> simp at hi
  | output p k hout => simp [hout] at hi

/-- Settles O35: a CRC command fails or writes CRC_STATE; no other kind of effect is one of a CRC command. -/
theorem crcCommandsFrame : Obligations.CrcCommandsFrame := by
  intro i s t hi h
  cases exec_effect h with
  | failed | crc => exact ⟨rfl, fun _ => ⟨rfl, rfl, rfl⟩⟩
  | tag t k htag => rcases htag with rfl | rfl | rfl <;> simp at hi
  | chunk len t n p k hchunk => rcases hchunk with rfl | rfl <;> simp at hi
  | output p k hout => simp [hout] at hi

/-- PBUF is left alone, or its first `n` bytes are written. -/
def WritesPayload (n : Nat) (s t : State) : Prop :=
  t.pbuf = s.pbuf ∨ ∃ p : List Byte, p.length = n ∧ t.pbuf = s.pbuf.writeBytes 0 p

theorem writesPayload_read_above {n a : Nat} {s t : State} (h : WritesPayload n s t) (ha : n ≤ a) :
    t.pbuf.read a = s.pbuf.read a := by
  rcases h with h | ⟨p, hp, h⟩ <;> rw [h]
  exact read_writeBytes_outside _ _ _ _ (.inr (by omega))

/-- CHUNK_BUILD stores ARG_LEN payload bytes or none (R81). -/
theorem chunkBuildNext_writesPayload (s : State) : WritesPayload (opCount s).toNat s (chunkBuildNext s) := by
  unfold chunkBuildNext
  split
  · exact .inl rfl
  · split
    · exact .inl rfl
    · split
      · exact .inl rfl
      · exact .inr ⟨_, readBytes_length _ _ _ _, rfl⟩

/-- Past its tag, CHUNK_DECODE stores ARG_LEN - 12 payload bytes or none (R82). -/
theorem chunkDecodeBody_writesPayload (s : State) (len t : Word) (k : Nat) :
    WritesPayload ((opCount s).toNat - 12) s (chunkDecodeBody s len t k) := by
  simp only [chunkDecodeBody]
  split
  · exact .inl rfl
  · split
    · exact .inl rfl
    · exact .inr ⟨_, readBytes_length _ _ _ _, rfl⟩

/-- CHUNK_DECODE stores ARG_LEN - 12 payload bytes or none (R82). -/
theorem chunkDecodeNext_writesPayload (s : State) : WritesPayload ((opCount s).toNat - 12) s (chunkDecodeNext s) := by
  simp only [chunkDecodeNext]
  split
  · exact .inl rfl
  · split
    · exact .inl rfl
    · split
      · exact .inl rfl
      · exact chunkDecodeBody_writesPayload _ _ _ _

/-- CHUNK_BUILD and CHUNK_DECODE write only the chunk record, the payload bytes and the result registers. -/
theorem chunkWriter_frame {i : Instr} {n : Nat} {s t : State} (hi : i = .chunkBuild ∨ i = .chunkDecode)
    (h : exec i s = .next t) (hp : WritesPayload n s t) :
    t = { s with cLength := t.cLength, cType := t.cType, cCrc := t.cCrc, cPcount := t.cPcount, pbuf := t.pbuf,
                 chunkValid := t.chunkValid, err := t.err, errInfo0 := t.errInfo0, errInfo1 := t.errInfo1,
                 draws := t.draws } ∧
    (∀ a, t.ibuf.read a = s.ibuf.read a ∧ t.obuf.read a = s.obuf.read a) ∧
    ∀ a, n ≤ a → t.pbuf.read a = s.pbuf.read a := by
  cases exec_effect h with
  | failed | chunk => exact ⟨rfl, fun _ => ⟨rfl, rfl⟩, fun _ => writesPayload_read_above hp⟩
  | tag t k htag => rcases htag with rfl | rfl | rfl <;> simp at hi
  | crc c k hcrc => rcases hcrc with rfl | rfl <;> simp at hi
  | output p k hout => simp [hout] at hi

/-- Settles O40: a chunk writer fails or writes the record, with as many PBUF bytes as its payload has. -/
theorem chunkWritersFrame : Obligations.ChunkWritersFrame := by
  constructor
  · rintro s t ⟨⟩
    exact chunkWriter_frame (.inl rfl) (exec_eq_nextOf _ s) (chunkBuildNext_writesPayload s)
  · rintro s t ⟨⟩
    exact chunkWriter_frame (.inr rfl) (exec_eq_nextOf _ s) (chunkDecodeNext_writesPayload s)

/-- Settles O41: CHUNK_ENCODE fails, or writes the 12 + C_PCOUNT bytes of the frame to OBUF. -/
theorem chunkEncodeFrame : Obligations.ChunkEncodeFrame := by
  intro s t h
  cases exec_effect h with
  | failed => exact ⟨rfl, fun _ => ⟨rfl, rfl⟩, fun _ _ => rfl⟩
  | output p k hi hv hp =>
    refine ⟨rfl, fun _ => ⟨rfl, rfl⟩, fun a ha => read_writeBytes_outside _ 0 _ _ (.inr ?_)⟩
    rw [frameBytes_length]
    omega
  | tag t k htag => simp at htag
  | crc c k hcrc => simp at hcrc
  | chunk len t n p k hchunk => simp at hchunk

end Sys2Proof.Machine
end

section
/-!
PROOFS. The family of spec/40_tag_decoder.md: the scan-then-load that TAG_LOAD and TAG_LOAD_STR share, the four bytes
TAG_LOAD_STR reads, and what each of the three tag commands answers.
-/
namespace Sys2Proof.Machine

/-! ### Letters -/

/-- Settles O22: `letter` decides R58's two ranges. -/
theorem letterIsAsciiLetter : Obligations.LetterIsAsciiLetter := fun b => iff_of_eq (letter_spec b)

/-- A big-endian word is a constructible tag when its four bytes are letters (R59). -/
theorem allLetters_be32 {b0 b1 b2 b3 : Byte} (h0 : IsLetter b0) (h1 : IsLetter b1) (h2 : IsLetter b2)
    (h3 : IsLetter b3) : AllLetters (be32 b0 b1 b2 b3) := by
  rw [← letters_eq_true, letters, bebytes_be32]
  simp only [List.all_cons, List.all_nil, Bool.and_true, Bool.and_eq_true, letter_spec]
  exact ⟨h0, h1, h2, h3⟩

/-! ### Scan, then load -/

/-- What TAG_LOAD and TAG_LOAD_STR make of four tag bytes (R67, R68): scan them, then load TAG or report. -/
def scanAndLoad (t : Word) (s : State) : State :=
  match scanTag t with
  | some info => raise .invalidByte info 0#32 s
  | none => succeed (setTag t s)

theorem scanAndLoad_of_allLetters {t : Word} (s : State) (h : AllLetters t) :
    scanAndLoad t s = succeed (setTag t s) := by
  have hscan : scanTag t = none := (scanTag_eq_none t).2 ((letters_eq_true t).2 h)
  rw [scanAndLoad, hscan]

theorem scanAndLoad_of_first {t : Word} {k : Nat} (s : State) (h : FirstNonLetter t k) :
    scanAndLoad t s = raise .invalidByte (invalidByteInfo (tagByte t k) k) 0#32 s := by
  rw [scanAndLoad, scanTag_of_first h]

/-- TAG_LOAD scans and loads TAGIN (R67). -/
theorem exec_tagLoad (s : State) : exec .tagLoad s = .next (scanAndLoad s.tagin s) := rfl

/-- With a count other than 4, TAG_LOAD_STR reads nothing (R68). -/
theorem exec_tagLoadStr_of_count_ne {s : State} (h : s.argLen ≠ 4#32) :
    exec .tagLoadStr s = .next (raise .invalidLength s.argLen 0#32 s) := by
  rw [exec_eq_nextOf, nextOf, tagLoadStrNext, if_pos h]

/-- With a count of 4, TAG_LOAD_STR scans and loads the word it reads at the start of IBUF (R68). -/
theorem exec_tagLoadStr_of_count {s : State} (h : s.argLen = 4#32) :
    exec .tagLoadStr s =
      .next (scanAndLoad (readWord s.ibuf s.draws 0).1 (setDraws (readWord s.ibuf s.draws 0).2 s)) := by
  rw [exec_eq_nextOf, nextOf, tagLoadStrNext, if_neg (not_not.2 h)]
  rfl

/-- Settles O24: the two cases of the scan of TAGIN. -/
theorem tagLoadLoadsOrReportsFirstBadByte : Obligations.TagLoadLoadsOrReportsFirstBadByte := by
  refine ⟨by decide, fun s => ⟨fun h => ?_, fun k h => ?_⟩⟩
  · rw [exec_tagLoad, scanAndLoad_of_allLetters s h]
    rfl
  · rw [exec_tagLoad, scanAndLoad_of_first s h]
    rfl

/-- Settles O25: the count is checked first; with 4, the bytes are those the read of IBUF returned, and the rest is the
two cases of their scan. -/
theorem tagLoadStrLoadsOrReports : Obligations.TagLoadStrLoadsOrReports := by
  refine ⟨by decide, fun s => ⟨exec_tagLoadStr_of_count_ne, fun hn => ?_⟩⟩
  obtain ⟨b0, b1, b2, b3, hreads, hword⟩ := readWord_readsAs s.ibuf s.draws 0
  have hexec := exec_tagLoadStr_of_count hn
  rw [hword, be32] at hexec
  refine ⟨b0, b1, b2, b3, (readWord s.ibuf s.draws 0).2, hreads, fun h => ?_, fun j h => ?_⟩
  · rw [hexec, scanAndLoad_of_allLetters _ h]
    rfl
  · rw [hexec, scanAndLoad_of_first _ h]
    rfl

/-! ### Four written bytes -/

/-- Four written bytes read as their big-endian word, and no free value is taken (R39, R41). -/
theorem readWord_of_bytes {m : Memory} {a : Nat} {b0 b1 b2 b3 : Byte} (k : Nat)
    (h : m.bytes a 4 = some [b0, b1, b2, b3]) : readWord m k a = (be32 b0 b1 b2 b3, k) := by
  obtain ⟨-, hread⟩ := (bytes_eq_some m a 4 _).1 h
  have h0 : m.read a = some b0 := hread 0 (by omega)
  simp only [readWord, readByte_written _ h0, readByte_written _ (hread 1 (by omega)),
    readByte_written _ (hread 2 (by omega)), readByte_written _ (hread 3 (by omega))]

/-- Settles O26: the written bytes are the word read, no free value is taken, and four letters pass the scan. -/
theorem tagLoadStrLoadsWrittenString : Obligations.TagLoadStrLoadsWrittenString := by
  intro s b0 b1 b2 b3 hn hbytes h0 h1 h2 h3
  rw [exec_tagLoadStr_of_count hn, readWord_of_bytes _ hbytes,
    scanAndLoad_of_allLetters _ (allLetters_be32 h0 h1 h2 h3)]
  rfl

/-! ### A chunk's type -/

/-- Settles O27: CHUNK_VALID selects the copy or NO_CHUNK. -/
theorem tagFromChunkCopiesType : Obligations.TagFromChunkCopiesType := by
  refine ⟨by decide, fun s => ⟨fun hv => ?_, fun hv => ?_⟩⟩
  · rw [exec_eq_nextOf, nextOf, tagFromChunkNext, if_pos hv]
    rfl
  · rw [exec_eq_nextOf, nextOf, tagFromChunkNext, if_neg (by simp [hv])]
    rfl

end Sys2Proof.Machine
end

section
/-!
PROOFS. The family of spec/41_crc_generator.md: the fold over a concatenation and what it detects, and what CRC_INIT and
CRC_UPDATE answer, alone and one after the other.
-/
namespace Sys2Proof.Machine

/-! ### The function -/

/-- Settles O29: each row is a run of R71's loop. -/
theorem crcMatchesKnownValues : Obligations.CrcMatchesKnownValues := by
  unfold Obligations.CrcMatchesKnownValues
  decide +kernel

/-- Settles O30, by induction on the first part, whose bytes both sides fold first. -/
theorem crcFoldOfAppend : Obligations.CrcFoldOfAppend := by
  intro c x y
  induction x generalizing c with
  | nil => rfl
  | cons b x ih => exact ih (crcStep c b)

/-- Settles O31: the bytes before the changed one leave the same register, from which its step is one-to-one in the byte
and the rest of the fold in the register. -/
theorem oneByteChangeChangesCrc : Obligations.OneByteChangeChangesCrc := by
  intro x y b c hne h
  have hfold := (BitVec.xor_left_inj _).1 h
  rw [crcFoldOfAppend, crcFoldOfAppend] at hfold
  have hstep := crcFold_injective_left y hfold
  exact hne (crcStep_injective_right hstep)

/-! ### The commands -/

/-- CRC_INIT always succeeds, with all ones in CRC_STATE (R74). -/
theorem exec_crcInit (s : State) : exec .crcInit s = .next (succeed (setCrcState 0xFFFFFFFF#32 s)) := rfl

/-- A count past the end of IBUF fails CRC_UPDATE before any read (R75). -/
theorem exec_crcUpdate_of_capacity_lt {s : State} (h : s.capacity.toNat < s.argLen.toNat) :
    exec .crcUpdate s = .next (raise .range s.argLen s.capacity s) := by
  rw [exec_eq_nextOf, nextOf, crcUpdateNext, if_pos h]

/-- With its count in range, CRC_UPDATE folds the bytes it reads into CRC_STATE (R75). -/
theorem exec_crcUpdate_of_le_capacity {s : State} (h : s.argLen.toNat ≤ s.capacity.toNat) :
    exec .crcUpdate s = .next (succeed
      (setCrcState (crcFold s.crcState (readBytes s.ibuf s.draws 0 s.argLen.toNat).1)
        (setDraws (readBytes s.ibuf s.draws 0 s.argLen.toNat).2 s))) := by
  rw [exec_eq_nextOf, nextOf, crcUpdateNext, if_neg (Nat.not_lt.2 h)]

/-- Settles O32: the state CRC_INIT answers, whose CRC_VALUE is all ones xor all ones. -/
theorem crcInitSetsAllOnes : Obligations.CrcInitSetsAllOnes :=
  fun s => ⟨_, exec_crcInit s, by simp [crcValue], rfl⟩

/-- Settles O33: the two cases of the range check; the bytes folded are those the reads of IBUF returned. The example is
the check value of the known ones. -/
theorem crcUpdateFoldsInput : Obligations.CrcUpdateFoldsInput := by
  obtain ⟨-, -, -, -, -, hcheck⟩ := crcMatchesKnownValues
  exact ⟨hcheck, fun s => ⟨fun h => exec_crcUpdate_of_capacity_lt h, fun h =>
    ⟨_, _, readBytes_readsAs s.ibuf s.draws 0 s.argLen.toNat, exec_crcUpdate_of_le_capacity h⟩⟩⟩

/-! ### A sequence in pieces -/

/-- CRC_UPDATE over written bytes succeeds and folds exactly them (R39, R75). -/
theorem exec_crcUpdate_of_bytes {s : State} {x : List Byte} (h : s.argLen.toNat ≤ s.capacity.toNat)
    (hx : s.ibuf.bytes 0 s.argLen.toNat = some x) :
    ∃ t, exec .crcUpdate s = .next t ∧ t.err = 0#4 ∧ t.crcState = crcFold s.crcState x := by
  refine ⟨_, exec_crcUpdate_of_le_capacity h, rfl, ?_⟩
  simp [readBytes_of_bytes s.draws hx]

/-- Settles O34: the three commands leave all ones, the fold over `x`, and the fold of that over `y`. -/
theorem crcOfPiecesIsCrcOfWhole : Obligations.CrcOfPiecesIsCrcOfWhole := by
  rintro s t u x y ⟨s', hinit, hst⟩ htn hx hun hy ⟨t', hupdate, htu⟩
  obtain rfl : succeed (setCrcState 0xFFFFFFFF#32 s) = s' := by simpa [exec_crcInit] using hinit
  obtain ⟨t'', hexec, -, hfoldx⟩ := exec_crcUpdate_of_bytes htn hx
  obtain rfl : t'' = t' := by simpa [hexec] using hupdate
  obtain ⟨u', hu, herr, hfoldy⟩ := exec_crcUpdate_of_bytes hun hy
  refine ⟨u', hu, herr, ?_⟩
  calc crcValue u' = crcFold (crcFold t.crcState x) y ^^^ 0xFFFFFFFF#32 := by rw [crcValue, hfoldy, ← htu, hfoldx]
    _ = crcFold (crcFold 0xFFFFFFFF#32 x) y ^^^ 0xFFFFFFFF#32 := by rw [← hst]; rfl
    _ = crc32 (x ++ y) := by rw [crc32, crcFoldOfAppend]

end Sys2Proof.Machine
end

section
/-!
PROOFS. The family of spec/42_chunk_frame.md: what each command of the frame unit answers, what CHUNK_DECODE makes of a
frame as a function of the frame's bytes, and the laws of section 4 read off from that.
-/
namespace Sys2Proof.Machine

/-! ### Bytes written at the start of a buffer -/

/-- After a write at offset 0 the buffer starts with the written bytes and is the old one past them. -/
theorem read_writeBytes_zero (m : Memory) {bs : List Byte} {n : Nat} (h : bs.length = n) :
    (∀ i, i < n → (m.writeBytes 0 bs).read i = bs[i]?) ∧ ∀ a, n ≤ a → (m.writeBytes 0 bs).read a = m.read a := by
  subst h
  refine ⟨fun i hi => ?_, fun a ha => read_writeBytes_outside m 0 a bs (.inr (by omega))⟩
  simpa using read_writeBytes_inside m 0 i bs hi

theorem bytes_writeBytes_zero (m : Memory) {bs : List Byte} {n : Nat} (h : bs.length = n) :
    (m.writeBytes 0 bs).bytes 0 n = some bs := by
  subst h
  exact bytes_writeBytes m 0 bs

/-- Overwriting one byte of a written range replaces that byte of what the range reads as. -/
theorem bytes_write {m : Memory} {n i : Nat} {f : List Byte} (b : Byte) (hf : m.bytes 0 n = some f) (hi : i < n) :
    (m.write i b).bytes 0 n = some (f.set i b) := by
  obtain ⟨hlen, hread⟩ := (bytes_eq_some m 0 n f).1 hf
  refine (bytes_eq_some _ _ _ _).2 ⟨by simp [hlen], fun x hx => ?_⟩
  rw [read_write, List.getElem?_set, hread x hx]
  by_cases hxi : x = i
  · simp [hxi, hlen, hi]
  · simp [hxi, Ne.symm hxi]

/-! ### CHUNK_BUILD -/

/-- A count past the end of IBUF fails CHUNK_BUILD before any other check (R81). -/
theorem exec_chunkBuild_of_capacity_lt {s : State} (h : s.capacity.toNat < s.argLen.toNat) :
    exec .chunkBuild s = .next (raise .range s.argLen s.capacity s) := by
  rw [exec_eq_nextOf, nextOf, chunkBuildNext, if_pos h]

/-- A TAG that is not constructible fails CHUNK_BUILD (R81). -/
theorem exec_chunkBuild_of_not_letters {s : State} (h : s.argLen.toNat ≤ s.capacity.toNat) (ht : ¬ AllLetters s.tag) :
    exec .chunkBuild s = .next (raise .noTag s.tag 0#32 s) := by
  rw [← letters_eq_true, Bool.not_eq_true] at ht
  rw [exec_eq_nextOf, nextOf, chunkBuildNext, if_neg (Nat.not_lt.2 h), if_pos (by simp [ht])]

/-- With its count in range and a constructible TAG, CHUNK_BUILD stores the record of the bytes it reads; a 32-bit count
cannot overflow (R81, R101). -/
theorem exec_chunkBuild_of_letters {s : State} (h : s.argLen.toNat ≤ s.capacity.toNat) (ht : AllLetters s.tag) :
    ∃ p k, ReadsAs s.ibuf 0 s.argLen.toNat p ∧ exec .chunkBuild s =
      .next (succeed (setChunk s.argLen s.tag (chunkCrc s.tag p) s.argLen p (setDraws k s))) := by
  have hmax := s.argLen.isLt
  rw [← letters_eq_true] at ht
  refine ⟨_, (readBytes s.ibuf s.draws 0 s.argLen.toNat).2, readBytes_readsAs s.ibuf s.draws 0 s.argLen.toNat, ?_⟩
  rw [exec_eq_nextOf, nextOf, chunkBuildNext, if_neg (Nat.not_lt.2 h), if_neg (by simp [ht]), if_neg (by omega)]

/-- Settles O36: the two checks in order, then the record of the bytes read. -/
theorem chunkBuildBuildsRecord : Obligations.ChunkBuildBuildsRecord := by
  intro s
  refine ⟨exec_chunkBuild_of_capacity_lt, exec_chunkBuild_of_not_letters, fun hn ht => ?_⟩
  obtain ⟨p, k, hp, hexec⟩ := exec_chunkBuild_of_letters hn ht
  exact ⟨p, _, hp, hexec, rfl, read_writeBytes_zero s.pbuf hp.1⟩

/-! ### CHUNK_ENCODE -/

/-- With no chunk held CHUNK_ENCODE fails (R84). -/
theorem exec_chunkEncode_of_no_chunk {s : State} (h : s.chunkValid = false) :
    exec .chunkEncode s = .next (raise .noChunk 0#32 0#32 s) := by
  rw [exec_eq_nextOf, nextOf, chunkEncodeNext, if_neg (by simp [h])]

/-- With a chunk held CHUNK_ENCODE writes the frame of the record and of the payload it reads (R84). -/
theorem exec_chunkEncode_of_chunk {s : State} (h : s.chunkValid = true) :
    ∃ p k, ReadsAs s.pbuf 0 s.cPcount.toNat p ∧ exec .chunkEncode s =
      .next (succeed (setOutput (frameBytes s.cLength s.cType s.cCrc p) (12#32 + s.cPcount) (setDraws k s))) := by
  refine ⟨_, (readBytes s.pbuf s.draws 0 s.cPcount.toNat).2, readBytes_readsAs s.pbuf s.draws 0 s.cPcount.toNat, ?_⟩
  rw [exec_eq_nextOf, nextOf, chunkEncodeNext, if_pos h]

/-- Settles O39: the two values of CHUNK_VALID. -/
theorem chunkEncodeSerializesRecord : Obligations.ChunkEncodeSerializesRecord := by
  refine fun s => ⟨exec_chunkEncode_of_no_chunk, fun hv => ?_⟩
  obtain ⟨p, k, hp, hexec⟩ := exec_chunkEncode_of_chunk hv
  refine ⟨p, _, _, hp, rfl, hexec, rfl, read_writeBytes_zero s.obuf ?_⟩
  rw [frameBytes_length, hp.1]

/-- CHUNK_ENCODE of a record whose payload `p` is held writes the frame of the record and `p` (R84). -/
theorem exec_chunkEncode_of_bytes {s : State} {p : List Byte} (h : s.chunkValid = true)
    (hp : s.pbuf.bytes 0 s.cPcount.toNat = some p) :
    ∃ k, exec .chunkEncode s =
      .next (succeed (setOutput (frameBytes s.cLength s.cType s.cCrc p) (12#32 + s.cPcount) (setDraws k s))) := by
  obtain ⟨q, k, hq, hexec⟩ := exec_chunkEncode_of_chunk h
  obtain rfl := readsAs_of_bytes hp hq
  exact ⟨k, hexec⟩

/-! ### What CHUNK_DECODE makes of a frame -/

/-- The payload of a frame of `n` bytes (R79): what stands between its first 8 bytes and its last 4. -/
def payloadField (n : Nat) (f : List Byte) : List Byte := (f.drop 8).take (n - 12)

theorem payloadField_length {n : Nat} {f : List Byte} (hl : f.length = n) : (payloadField n f).length = n - 12 := by
  rw [payloadField, List.length_take, List.length_drop]
  omega

/-- The CRC computed of a frame of `n` bytes, over its type and payload (R80). -/
def computedCrc (n : Nat) (f : List Byte) : Word := chunkCrc (wordOf f 4) (payloadField n f)

/-- Steps 3 to 7 of R82 on the frame `f` of ARG_LEN bytes: check the tag, the declared length and the CRC in this order,
then store the record. -/
def validateFrame (f : List Byte) (s : State) : State :=
  match scanTag (wordOf f 4) with
  | some info => raise .invalidByte info 0#32 s
  | none =>
    if s.config = .strict ∧ wordOf f 0 ≠ s.argLen - 12#32 then
      raise .lengthMismatch (wordOf f 0) (s.argLen - 12#32) s
    else if computedCrc s.argLen.toNat f ≠ wordOf f (s.argLen.toNat - 4) then
      raise .invalidCrc (computedCrc s.argLen.toNat f) (wordOf f (s.argLen.toNat - 4)) s
    else
      succeed (setChunk (wordOf f 0) (wordOf f 4) (wordOf f (s.argLen.toNat - 4)) (s.argLen - 12#32)
        (payloadField s.argLen.toNat f) s)

/-- The declared length passes its check (R2, R82). -/
def LengthAccepted (n : Word) (c : LengthCheck) (f : List Byte) : Prop := ¬ (c = .strict ∧ wordOf f 0 ≠ n - 12#32)

/-- A frame of `n` bytes passes every check of R82 after the two of its size. -/
structure FrameAccepted (n : Word) (c : LengthCheck) (f : List Byte) : Prop where
  letters : AllLetters (wordOf f 4)
  length  : LengthAccepted n c f
  crc     : computedCrc n.toNat f = wordOf f (n.toNat - 4)

theorem scanTag_of_allLetters {t : Word} (h : AllLetters t) : scanTag t = none :=
  (scanTag_eq_none t).2 ((letters_eq_true t).2 h)

section Outcomes

variable {f : List Byte} {s : State}

theorem validateFrame_of_first {j : Nat} (h : FirstNonLetter (wordOf f 4) j) :
    validateFrame f s = raise .invalidByte (invalidByteInfo (tagByte (wordOf f 4) j) j) 0#32 s := by
  rw [validateFrame, scanTag_of_first h]

theorem validateFrame_of_lengthMismatch (ht : AllLetters (wordOf f 4)) (hs : s.config = .strict)
    (hl : wordOf f 0 ≠ s.argLen - 12#32) :
    validateFrame f s = raise .lengthMismatch (wordOf f 0) (s.argLen - 12#32) s := by
  simp only [validateFrame, scanTag_of_allLetters ht]
  rw [if_pos ⟨hs, hl⟩]

theorem validateFrame_of_crcMismatch (ht : AllLetters (wordOf f 4)) (hl : LengthAccepted s.argLen s.config f)
    (hc : computedCrc s.argLen.toNat f ≠ wordOf f (s.argLen.toNat - 4)) :
    validateFrame f s =
      raise .invalidCrc (computedCrc s.argLen.toNat f) (wordOf f (s.argLen.toNat - 4)) s := by
  simp only [validateFrame, scanTag_of_allLetters ht]
  rw [if_neg hl, if_pos hc]

theorem validateFrame_of_accepted (h : FrameAccepted s.argLen s.config f) :
    validateFrame f s = succeed (setChunk (wordOf f 0) (wordOf f 4) (wordOf f (s.argLen.toNat - 4))
      (s.argLen - 12#32) (payloadField s.argLen.toNat f) s) := by
  simp only [validateFrame, scanTag_of_allLetters h.letters]
  rw [if_neg h.length, if_neg (not_not.2 h.crc)]

/-- Each check that fails leaves an error: with no error, all have passed. -/
theorem frameAccepted_of_err (h : (validateFrame f s).err = 0#4) : FrameAccepted s.argLen s.config f := by
  by_cases ht : AllLetters (wordOf f 4)
  · by_cases hl : LengthAccepted s.argLen s.config f
    · by_cases hc : computedCrc s.argLen.toNat f = wordOf f (s.argLen.toNat - 4)
      · exact ⟨ht, hl, hc⟩
      · simp [validateFrame_of_crcMismatch ht hl hc, errorCode] at h
    · obtain ⟨hs, hne⟩ := not_not.1 hl
      simp [validateFrame_of_lengthMismatch ht hs hne, errorCode] at h
  · rw [← letters_eq_true, Bool.not_eq_true] at ht
    obtain ⟨j, hj⟩ := exists_first_of_not_letters ht
    simp [validateFrame_of_first hj, errorCode] at h

end Outcomes

/-! ### CHUNK_DECODE -/

/-- A count past the end of IBUF fails CHUNK_DECODE first (R82). -/
theorem exec_chunkDecode_of_capacity_lt {s : State} (h : s.capacity.toNat < s.argLen.toNat) :
    exec .chunkDecode s = .next (raise .range s.argLen s.capacity s) := by
  rw [exec_eq_nextOf, nextOf, chunkDecodeNext, if_pos h]

/-- A count below that of the smallest frame fails CHUNK_DECODE before any read (R82). -/
theorem exec_chunkDecode_of_lt_twelve {s : State} (h : s.argLen.toNat ≤ s.capacity.toNat) (h12 : s.argLen.toNat < 12) :
    exec .chunkDecode s = .next (raise .chunkTooShort s.argLen 0#32 s) := by
  rw [exec_eq_nextOf, nextOf, chunkDecodeNext, if_neg (Nat.not_lt.2 h), if_pos h12]

/-- The four bytes of a big-endian read are something the buffer may read as. -/
theorem readWord_readsAs_bebytes (m : Memory) (k a : Nat) : ReadsAs m a 4 (bebytes (readWord m k a).1) := by
  obtain ⟨b0, b1, b2, b3, hreads, hword⟩ := readWord_readsAs m k a
  rw [hword, bebytes_be32]
  exact hreads

/-- The four parts of a frame, read one by one, are a read of the whole frame (R79). -/
theorem readsAs_frameBytes {m : Memory} {n : Nat} {l t c : Word} {p : List Byte} (h12 : 12 ≤ n)
    (hl : ReadsAs m 0 4 (bebytes l)) (ht : ReadsAs m 4 4 (bebytes t)) (hp : ReadsAs m 8 (n - 12) p)
    (hc : ReadsAs m (n - 4) 4 (bebytes c)) : ReadsAs m 0 n (frameBytes l t c p) := by
  rw [show n - 4 = 0 + (4 + 4 + (n - 12)) by omega] at hc
  have h := readsAs_append (readsAs_append (readsAs_append hl ht) hp) hc
  rwa [show 4 + 4 + (n - 12) + 4 = n by omega] at h

/-- The fields of the frame made of four parts are the parts. -/
theorem frameBytes_fields {n : Nat} {p : List Byte} (l t c : Word) (hn : n = 12 + p.length) :
    wordOf (frameBytes l t c p) 0 = l ∧ wordOf (frameBytes l t c p) 4 = t ∧
      wordOf (frameBytes l t c p) (n - 4) = c ∧ payloadField n (frameBytes l t c p) = p := by
  refine ⟨wordOf_frameBytes_length .., wordOf_frameBytes_type .., ?_, ?_⟩
  · rw [show n - 4 = 8 + p.length by omega, wordOf_frameBytes_crc]
  · rw [payloadField, show n - 12 = p.length by omega, payload_frameBytes]

/-- Past the tag, what CHUNK_DECODE does with the fields it reads is the validation of the frame they make. -/
theorem chunkDecodeBody_eq_validateFrame {s : State} {len t : Word} (k : Nat) (h12 : 12 ≤ s.argLen.toNat)
    (hl : ReadsAs s.ibuf 0 4 (bebytes len)) (ht : ReadsAs s.ibuf 4 4 (bebytes t)) (hscan : scanTag t = none) :
    ∃ f k', ReadsAs s.ibuf 0 s.argLen.toNat f ∧ chunkDecodeBody s len t k = validateFrame f (setDraws k' s) := by
  have hd := readWord_readsAs_bebytes s.ibuf k (s.argLen.toNat - 4)
  have hp := readBytes_readsAs s.ibuf (readWord s.ibuf k (s.argLen.toNat - 4)).2 8 (s.argLen.toNat - 12)
  refine ⟨_, (readBytes s.ibuf (readWord s.ibuf k (s.argLen.toNat - 4)).2 8 (s.argLen.toNat - 12)).2,
    readsAs_frameBytes h12 hl ht hp hd, ?_⟩
  obtain ⟨hlen, htag, hcrc, hpay⟩ := frameBytes_fields len t (readWord s.ibuf k (s.argLen.toNat - 4)).1
    (show s.argLen.toNat = 12 + _ by rw [hp.1]; omega)
  simp only [chunkDecodeBody, validateFrame, computedCrc, setDraws_argLen, setDraws_config, hlen, htag, hcrc, hpay,
    hscan]

/-- With a count in range, CHUNK_DECODE validates the frame it reads (R82). -/
theorem exec_chunkDecode_reads {s : State} (h : s.argLen.toNat ≤ s.capacity.toNat) (h12 : 12 ≤ s.argLen.toNat) :
    ∃ f k, ReadsAs s.ibuf 0 s.argLen.toNat f ∧ exec .chunkDecode s = .next (validateFrame f (setDraws k s)) := by
  have hl := readWord_readsAs_bebytes s.ibuf s.draws 0
  have ht := readWord_readsAs_bebytes s.ibuf (readWord s.ibuf s.draws 0).2 4
  simp only [exec_eq_nextOf, nextOf, chunkDecodeNext, if_neg (Nat.not_lt.2 h), if_neg (Nat.not_lt.2 h12),
    Host.Outcome.next.injEq]
  split
  · next info hscan =>
    refine ⟨_, (readWord s.ibuf (readWord s.ibuf s.draws 0).2 4).2, readsAs_frameBytes h12 hl ht
      (readBytes_readsAs s.ibuf 0 8 _) (readWord_readsAs_bebytes s.ibuf 0 _), ?_⟩
    simp only [validateFrame, wordOf_frameBytes_type, hscan]
  · next hscan => exact chunkDecodeBody_eq_validateFrame _ h12 hl ht hscan

/-- Settles O37: the two checks of the count, then the four outcomes of validating the frame read. -/
theorem chunkDecodeValidatesFrame : Obligations.ChunkDecodeValidatesFrame := by
  refine fun s => ⟨exec_chunkDecode_of_capacity_lt, exec_chunkDecode_of_lt_twelve, fun hn h12 => ?_⟩
  obtain ⟨f, k, hf, hexec⟩ := exec_chunkDecode_reads hn h12
  refine ⟨f, _, _, _, _, k, hf, rfl, rfl, rfl, rfl, fun j hj => ?_, fun ht hs hl => ?_, fun ht hl hc => ?_,
    fun ht hl hc => ?_⟩
  · rw [hexec, validateFrame_of_first hj]
    rfl
  · rw [hexec, validateFrame_of_lengthMismatch (s := setDraws k s) ht hs hl]
    rfl
  · rw [hexec, validateFrame_of_crcMismatch (s := setDraws k s) ht hl hc]
    rfl
  · rw [hexec, validateFrame_of_accepted (s := setDraws k s) ⟨ht, hl, hc⟩]
    exact ⟨_, rfl, rfl, read_writeBytes_zero s.pbuf (payloadField_length hf.1)⟩

/-- Of a written frame there is only one thing to read. -/
theorem exec_chunkDecode_of_bytes {s : State} {f : List Byte} (h : s.argLen.toNat ≤ s.capacity.toNat)
    (h12 : 12 ≤ s.argLen.toNat) (hf : s.ibuf.bytes 0 s.argLen.toNat = some f) :
    ∃ k, exec .chunkDecode s = .next (validateFrame f (setDraws k s)) := by
  obtain ⟨g, k, hg, hexec⟩ := exec_chunkDecode_reads h h12
  obtain rfl := readsAs_of_bytes hf hg
  exact ⟨k, hexec⟩

/-! ### A well-made frame -/

/-- CHUNK_DECODE accepts a written frame of four letters with the CRC of its type and payload and, under STRICT, with
its true length (R79, R80, R82). -/
theorem exec_chunkDecode_of_frameBytes {s : State} {len tag : Word} {p : List Byte}
    (hn : s.argLen.toNat = 12 + p.length) (h : s.argLen.toNat ≤ s.capacity.toNat) (ht : AllLetters tag)
    (hl : s.config = .strict → len = s.argLen - 12#32)
    (hf : s.ibuf.bytes 0 s.argLen.toNat = some (frameBytes len tag (chunkCrc tag p) p)) :
    ∃ k, exec .chunkDecode s =
      .next (succeed (setChunk len tag (chunkCrc tag p) (s.argLen - 12#32) p (setDraws k s))) := by
  obtain ⟨k, hexec⟩ := exec_chunkDecode_of_bytes h (by omega) hf
  obtain ⟨hlen, htag, hcrc, hpay⟩ := frameBytes_fields len tag (chunkCrc tag p) hn
  have hok : FrameAccepted s.argLen s.config (frameBytes len tag (chunkCrc tag p) p) := by
    constructor
    · rwa [htag]
    · rintro ⟨hs, hne⟩
      exact hne (hlen.trans (hl hs))
    · rw [computedCrc, htag, hcrc, hpay]
  rw [validateFrame_of_accepted (s := setDraws k s) hok, setDraws_argLen, hlen, htag, hcrc, hpay] at hexec
  exact ⟨k, hexec⟩

/-- Settles O38: a well-made frame passes every check. -/
theorem chunkDecodeAcceptsWrittenFrame : Obligations.ChunkDecodeAcceptsWrittenFrame := by
  intro s len tag p hn hcap ht hl hf
  have hcount := toNat_sub_twelve s.argLen (by omega)
  obtain ⟨k, hexec⟩ := exec_chunkDecode_of_frameBytes hn hcap ht
    (fun hs => BitVec.eq_of_toNat_eq (by rw [hl hs, hcount]; omega)) hf
  exact ⟨_, hexec, rfl, read_writeBytes_zero s.pbuf rfl⟩

/-! ### Round trip -/

/-- The count a decode takes from a frame's size is the count it was encoded from. -/
theorem twelve_add_sub_twelve (n : Word) : 12#32 + n - 12#32 = n := by
  rw [BitVec.add_comm, BitVec.add_sub_cancel]

theorem bytes_congr {m m' : Memory} {n : Nat} {bs : List Byte} (hb : m.bytes 0 n = some bs)
    (h : ∀ i, i < n → m'.read i = m.read i) : m'.bytes 0 n = some bs := by
  obtain ⟨hlen, hread⟩ := (bytes_eq_some m 0 n bs).1 hb
  refine (bytes_eq_some _ _ _ _).2 ⟨hlen, fun i hi => ?_⟩
  rw [h (0 + i) (by omega), hread i hi]

/-- Settles O53: the build holds the payload, the encode writes the well-made frame of it with its true length, and the
decode of a copy of that frame stores the same record. -/
theorem buildEncodeDecodeRoundTrip : Obligations.BuildEncodeDecodeRoundTrip := by
  intro s p hparams ht hcap hp
  obtain ⟨q, kb, hq, hbuild⟩ := exec_chunkBuild_of_letters (s := s) (by omega) ht
  obtain rfl := readsAs_of_bytes hp hq
  have hpbuf : ∀ m : Memory, (m.writeBytes 0 q).bytes 0 s.argLen.toNat = some q := fun m =>
    bytes_writeBytes_zero m hq.1
  obtain ⟨ke, hencode⟩ := exec_chunkEncode_of_bytes
    (s := succeed (setChunk s.argLen s.tag (chunkCrc s.tag q) s.argLen q (setDraws kb s))) rfl (hpbuf _)
  refine ⟨_, _, hbuild, hencode, fun m hm => ?_⟩
  have hsize : (12#32 + s.argLen).toNat = 12 + q.length := by
    rw [twelve_add_toNat hparams (by omega), hq.1]
  have hfits : (12#32 + s.argLen).toNat ≤ s.capacity.toNat := by
    rw [hsize, hq.1]
    omega
  have hcopy : m.bytes 0 (12#32 + s.argLen).toNat = some (frameBytes s.argLen s.tag (chunkCrc s.tag q) q) :=
    bytes_congr (bytes_writeBytes_zero _ (by rw [frameBytes_length, hsize])) hm
  obtain ⟨kd, hdecode⟩ := exec_chunkDecode_of_frameBytes
    (s := { succeed (setOutput (frameBytes s.argLen s.tag (chunkCrc s.tag q) q) (12#32 + s.argLen)
      (setDraws ke (succeed (setChunk s.argLen s.tag (chunkCrc s.tag q) s.argLen q (setDraws kb s)))))
      with ibuf := m, argLen := 12#32 + s.argLen })
    hsize hfits ht (fun _ => (twelve_add_sub_twelve s.argLen).symm) hcopy
  exact ⟨_, hdecode, rfl, rfl, rfl, rfl, twelve_add_sub_twelve s.argLen, hpbuf _, hpbuf _⟩

/-! ### Decode, then encode -/

/-- What an accepted decode of a written frame says: the count was in range, the frame passed every check, and its
fields are the record (R82). -/
theorem accepted_of_exec_chunkDecode {s t : State} {f : List Byte} (hf : s.ibuf.bytes 0 s.argLen.toNat = some f)
    (hexec : exec .chunkDecode s = .next t) (herr : t.err = 0#4) :
    s.argLen.toNat ≤ s.capacity.toNat ∧ 12 ≤ s.argLen.toNat ∧ FrameAccepted s.argLen s.config f ∧
      ∃ k, t = succeed (setChunk (wordOf f 0) (wordOf f 4) (wordOf f (s.argLen.toNat - 4)) (s.argLen - 12#32)
        (payloadField s.argLen.toNat f) (setDraws k s)) := by
  have hcap : s.argLen.toNat ≤ s.capacity.toNat := by
    by_contra hlt
    obtain rfl := Host.Outcome.next.inj ((exec_chunkDecode_of_capacity_lt (Nat.not_le.1 hlt)).symm.trans hexec)
    simp [errorCode] at herr
  have h12 : 12 ≤ s.argLen.toNat := by
    by_contra hlt
    obtain rfl := Host.Outcome.next.inj ((exec_chunkDecode_of_lt_twelve hcap (Nat.not_le.1 hlt)).symm.trans hexec)
    simp [errorCode] at herr
  obtain ⟨k, hvalid⟩ := exec_chunkDecode_of_bytes hcap h12 hf
  obtain rfl := Host.Outcome.next.inj (hvalid.symm.trans hexec)
  have hok : FrameAccepted s.argLen s.config f := frameAccepted_of_err (s := setDraws k s) herr
  exact ⟨hcap, h12, hok, k, validateFrame_of_accepted (s := setDraws k s) hok⟩

/-- Settles O54: the record stored is the fields of the frame, and a frame is the frame of its fields. -/
theorem decodeThenEncodeRewritesFrame : Obligations.DecodeThenEncodeRewritesFrame := by
  intro s t f _ hf hexec herr
  obtain ⟨-, h12, -, k, rfl⟩ := accepted_of_exec_chunkDecode hf hexec herr
  obtain ⟨hlen, -⟩ := (bytes_eq_some _ _ _ _).1 hf
  have hpbuf : (s.pbuf.writeBytes 0 (payloadField s.argLen.toNat f)).bytes 0 (s.argLen - 12#32).toNat =
      some (payloadField s.argLen.toNat f) :=
    bytes_writeBytes_zero _ (by rw [payloadField_length hlen, toNat_sub_twelve _ h12])
  obtain ⟨k', hencode⟩ := exec_chunkEncode_of_bytes (s := succeed (setChunk (wordOf f 0) (wordOf f 4)
    (wordOf f (s.argLen.toNat - 4)) (s.argLen - 12#32) (payloadField s.argLen.toNat f) (setDraws k s))) rfl hpbuf
  refine ⟨_, hencode, rfl, by simp, ?_⟩
  simp [payloadField, frameBytes_of_fields hlen h12, bytes_writeBytes_zero _ hlen]

/-! ### One byte of a frame overwritten -/

theorem tagByte_wordOf (f : List Byte) (a : Nat) {k : Nat} (hk : k < 4) :
    tagByte (wordOf f a) k = f.getD (a + k) 0#8 := by
  have h := bebytes_be32 (f.getD a 0#8) (f.getD (a + 1) 0#8) (f.getD (a + 2) 0#8) (f.getD (a + 3) 0#8)
  rw [← wordOf, bebytes_eq_tagBytes] at h
  simp only [List.cons.injEq, and_true] at h
  obtain ⟨h0, h1, h2, h3⟩ := h
  rcases k with _ | _ | _ | _ | k
  · exact h0
  · exact h1
  · exact h2
  · exact h3
  · omega

/-- A byte outside the four of a word does not enter it. -/
theorem wordOf_set_outside (f : List Byte) {i a : Nat} (b : Byte) (h : i < a ∨ a + 4 ≤ i) :
    wordOf (f.set i b) a = wordOf f a := by
  have hne : i ≠ a ∧ i ≠ a + 1 ∧ i ≠ a + 2 ∧ i ≠ a + 3 := by omega
  simp [wordOf, List.getElem?_set_ne, hne]

section Overwrite

variable {f : List Byte} {i : Nat} {b c : Byte}

theorem tagByte_wordOf_set_same {a k : Nat} (hk : k < 4) (hi : a + k = i) (hb : f[i]? = some b) :
    tagByte (wordOf (f.set i c) a) k = c := by
  obtain ⟨hlt, -⟩ := List.getElem?_eq_some_iff.1 hb
  rw [tagByte_wordOf _ a hk, hi]
  simp [hlt]

theorem tagByte_wordOf_set_other {a k : Nat} (hk : k < 4) (hi : a + k ≠ i) :
    tagByte (wordOf (f.set i c) a) k = tagByte (wordOf f a) k := by
  rw [tagByte_wordOf _ a hk, tagByte_wordOf _ a hk]
  simp [List.getElem?_set_ne hi.symm]

/-- Another byte inside a word makes another word. -/
theorem wordOf_set_ne {a : Nat} (hb : f[i]? = some b) (hne : b ≠ c) (h : a ≤ i) (h4 : i < a + 4) :
    wordOf (f.set i c) a ≠ wordOf f a := by
  intro hword
  have hbyte : tagByte (wordOf (f.set i c) a) (i - a) = c := tagByte_wordOf_set_same (by omega) (by omega) hb
  rw [hword, tagByte_wordOf f a (by omega), Nat.add_sub_cancel' h] at hbyte
  exact hne (by simpa [hb] using hbyte)

/-- A change of the byte at an index changes the CRC (R78). -/
theorem crc32_set_ne (hb : f[i]? = some b) (hne : b ≠ c) : crc32 (f.set i c) ≠ crc32 f := by
  obtain ⟨hlt, hbi⟩ := List.getElem?_eq_some_iff.1 hb
  have hf : f = f.take i ++ b :: f.drop (i + 1) := by
    rw [← hbi, List.getElem_cons_drop, List.take_append_drop]
  have hset : f.set i c = f.take i ++ c :: f.drop (i + 1) := by
    rw [List.set_eq_take_append_cons_drop, if_pos hlt]
  rw [hset]
  conv_rhs => rw [hf]
  exact (oneByteChangeChangesCrc _ _ _ _ hne).symm

/-- The CRC of a frame covers its bytes from the fifth to the last but four (R80). -/
theorem computedCrc_eq {n : Nat} (hl : f.length = n) (h12 : 12 ≤ n) :
    computedCrc n f = crc32 ((f.drop 4).take (n - 8)) := by
  have h : (f.drop 4).take (n - 8) = (f.drop 4).take 4 ++ payloadField n f := by
    rw [show n - 8 = 4 + (n - 12) by omega, List.take_add, List.drop_drop, payloadField]
  rw [computedCrc, chunkCrc, bebytes_wordOf f 4 (by omega), h]

/-- Another byte past the length field makes a frame whose CRC field is not its CRC (R78, R88). -/
theorem computedCrc_set_ne {n : Nat} (hl : f.length = n) (h12 : 12 ≤ n)
    (hcrc : computedCrc n f = wordOf f (n - 4)) (hb : f[i]? = some b) (hne : b ≠ c) (h4 : 4 ≤ i) :
    computedCrc n (f.set i c) ≠ wordOf (f.set i c) (n - 4) := by
  obtain ⟨hlt, -⟩ := List.getElem?_eq_some_iff.1 hb
  rw [computedCrc_eq (by simpa using hl) h12]
  rw [computedCrc_eq hl h12] at hcrc
  have hcovered : ((f.set i c).drop 4).take (n - 8) = ((f.drop 4).take (n - 8)).set (i - 4) c := by
    rw [List.drop_set, if_neg (by omega), List.take_set]
  rw [hcovered]
  by_cases hi : i < n - 4
  · have hcb : ((f.drop 4).take (n - 8))[i - 4]? = some b := by
      rw [List.getElem?_take_of_lt (by omega), List.getElem?_drop, Nat.add_sub_cancel' h4, hb]
    rw [wordOf_set_outside f c (.inl hi), ← hcrc]
    exact crc32_set_ne hcb hne
  · have hlen : ((f.drop 4).take (n - 8)).length ≤ i - 4 := by simp; omega
    rw [List.set_eq_of_length_le hlen, hcrc]
    exact (wordOf_set_ne hb hne (by omega) (by omega)).symm

end Overwrite

/-! ### Tampering -/

section Tamper

variable {s : State} {f : List Byte} {i : Nat} {b c : Byte} (hok : FrameAccepted s.argLen s.config f)
include hok

/-- Under STRICT the length field of an accepted frame has one value. -/
theorem wordOf_eq_of_strict (hs : s.config = .strict) : wordOf f 0 = s.argLen - 12#32 :=
  not_not.1 fun hne => hok.length ⟨hs, hne⟩

/-- The tag stays constructible where no tag byte is overwritten by a byte that is no letter. -/
theorem allLetters_set (hb : f[i]? = some b) (hc : 4 ≤ i → i < 8 → IsLetter c) :
    AllLetters (wordOf (f.set i c) 4) := by
  intro k hk
  by_cases hki : 4 + k = i
  · rw [tagByte_wordOf_set_same hk hki hb]
    exact hc (by omega) (by omega)
  · rw [tagByte_wordOf_set_other hk hki]
    exact hok.letters k hk

/-- Overwriting a tag byte by a byte that is no letter makes it the first of them. -/
theorem firstNonLetter_set (hb : f[i]? = some b) (h4 : 4 ≤ i) (h8 : i < 8) (hc : ¬ IsLetter c) :
    FirstNonLetter (wordOf (f.set i c) 4) (i - 4) := by
  refine ⟨by omega, ?_, fun k hk => ?_⟩
  · rwa [tagByte_wordOf_set_same (by omega) (by omega) hb]
  · rw [tagByte_wordOf_set_other (by omega) (by omega)]
    exact hok.letters k (by omega)

/-- Under TOLERATE another length field makes an accepted frame (R88). -/
theorem frameAccepted_set_of_tolerate (h12 : 12 ≤ s.argLen.toNat) (hi : i < 4) (hs : s.config = .tolerate) :
    FrameAccepted s.argLen s.config (f.set i c) := by
  have htag : wordOf (f.set i c) 4 = wordOf f 4 := wordOf_set_outside f c (.inl hi)
  have hcrc : wordOf (f.set i c) (s.argLen.toNat - 4) = wordOf f (s.argLen.toNat - 4) :=
    wordOf_set_outside f c (.inl (by omega))
  have hpay : payloadField s.argLen.toNat (f.set i c) = payloadField s.argLen.toNat f := by
    rw [payloadField, List.drop_set, if_pos (by omega), payloadField]
  refine ⟨htag ▸ hok.letters, by simp [LengthAccepted, hs], ?_⟩
  rw [computedCrc, htag, hpay, hcrc]
  exact hok.crc

theorem validateFrame_set_of_tolerate (h12 : 12 ≤ s.argLen.toNat) (hi : i < 4) (hs : s.config = .tolerate) :
    (validateFrame (f.set i c) s).err = 0#4 ∧ (validateFrame (f.set i c) s).cLength = wordOf (f.set i c) 0 := by
  rw [validateFrame_of_accepted (frameAccepted_set_of_tolerate hok h12 hi hs)]
  exact ⟨rfl, rfl⟩

/-- Under STRICT another length field ends in LENGTH_MISMATCH (R88). -/
theorem validateFrame_set_of_strict (hb : f[i]? = some b) (hne : b ≠ c) (hi : i < 4) (hs : s.config = .strict) :
    (validateFrame (f.set i c) s).err = 6#4 := by
  have hl := wordOf_set_ne hb hne (Nat.zero_le i) (by omega)
  rw [wordOf_eq_of_strict hok hs] at hl
  rw [validateFrame_of_lengthMismatch (allLetters_set hok hb (by omega)) hs hl]
  rfl

/-- A tag byte that is no letter ends in INVALID_BYTE of that byte and its index (R88). -/
theorem validateFrame_set_of_not_letter (hb : f[i]? = some b) (h4 : 4 ≤ i) (h8 : i < 8) (hc : ¬ IsLetter c) :
    (validateFrame (f.set i c) s).err = 2#4 ∧
      (validateFrame (f.set i c) s).errInfo0 = invalidByteInfo c (i - 4) := by
  rw [validateFrame_of_first (firstNonLetter_set hok hb h4 h8 hc), tagByte_wordOf_set_same (by omega) (by omega) hb]
  exact ⟨rfl, rfl⟩

/-- Another byte past the length field, the tag being letters still, ends in INVALID_CRC (R88). -/
theorem validateFrame_set_of_letters (hlen : f.length = s.argLen.toNat) (h12 : 12 ≤ s.argLen.toNat)
    (hb : f[i]? = some b) (hne : b ≠ c) (h4 : 4 ≤ i) (hc : i < 8 → IsLetter c) :
    (validateFrame (f.set i c) s).err = 4#4 := by
  have hl : LengthAccepted s.argLen s.config (f.set i c) := by
    rw [LengthAccepted, wordOf_set_outside f c (.inr h4)]
    exact hok.length
  rw [validateFrame_of_crcMismatch (allLetters_set hok hb fun _ => hc) hl
    (computedCrc_set_ne hlen h12 hok.crc hb hne h4)]
  rfl

end Tamper

theorem ne_xor_bit (b : Byte) {j : Nat} (hj : j < 8) : b ≠ b ^^^ (1#8 <<< j) := by
  have hbit : ∀ j, j < 8 → 1#8 <<< j ≠ 0#8 := by decide
  intro h
  exact hbit j hj (by simpa using h.symm)

/-- Settles O55: the flipped byte is another byte of the frame that is validated, and its place in the frame decides
which check it fails. -/
theorem singleBitTamperOutcomes : Obligations.SingleBitTamperOutcomes := by
  intro s t f i j b hf hexec herr hj hb
  obtain ⟨hcap, h12, hok, k, rfl⟩ := accepted_of_exec_chunkDecode hf hexec herr
  obtain ⟨hlen, -⟩ := (bytes_eq_some _ _ _ _).1 hf
  obtain ⟨hi, -⟩ := List.getElem?_eq_some_iff.1 hb
  have hne := ne_xor_bit b hj
  generalize b ^^^ (1#8 <<< j) = c at *
  obtain ⟨k', hexec'⟩ := exec_chunkDecode_of_bytes (s := { s with ibuf := s.ibuf.write i c }) hcap h12
    (bytes_write c hf (hlen ▸ hi))
  refine ⟨_, hexec', fun h4 hs => ?_, fun h4 hs => ?_, fun h4 h8 hc => ?_, fun h4 h8 hc => ?_, fun h8 => ?_⟩
  · obtain ⟨herr', hlength⟩ := validateFrame_set_of_tolerate (s := setDraws k' { s with ibuf := s.ibuf.write i c })
      (c := c) hok h12 h4 hs
    exact ⟨herr', hlength ▸ wordOf_set_ne hb hne (Nat.zero_le i) (by omega)⟩
  · exact validateFrame_set_of_strict hok hb hne h4 hs
  · exact validateFrame_set_of_not_letter hok hb h4 h8 hc
  · exact validateFrame_set_of_letters hok hlen h12 hb hne h4 fun _ => hc
  · exact validateFrame_set_of_letters hok hlen h12 hb hne (by omega) (by omega)

end Sys2Proof.Machine
end

section
/-!
PROOFS. The family of spec/60_exceptions.md: the step of a host fault and the FAULT mark that stays, the two ways a
completion reports, and the ERR values no step writes.
-/
namespace Sys2Proof.Machine

/-! ### The FAULT mark -/

/-- The step of an access that breaks the host protocol (R95). -/
theorem step_hostFault {s : State} {a : Access} {ts : List Turn} (hs : s.schedule = .host a :: ts)
    (h : BreaksProtocol s a) :
    ∃ t, step s = .next t ∧ t.faultMark = true ∧ blockOf t = blockOf s ∧ t.schedule = ts := by
  rw [← breaksProtocol_setSchedule ts] at h
  refine ⟨_, step_host hs, ?_⟩
  rw [hostAccess_fault h]
  exact ⟨rfl, by simp, rfl⟩

/-- A HOST step sets the FAULT mark or leaves it as it was. -/
theorem hostAccess_keeps_faultMark (a : Access) {s : State} (hs : s.faultMark = true) :
    (hostAccess a s).faultMark = true := by
  rcases hostAccess_cases a s with ⟨-, h⟩ | ⟨-, -, h⟩ | ⟨-, -, h⟩ <;> rw [h]
  · rfl
  · simpa [hostWrite] using hs
  · exact hs

/-- No command writes the FAULT mark: it is not hardware state (R95). -/
theorem effect_faultMark {i : Instr} {s t : State} (h : Effect i s t) : t.faultMark = s.faultMark := by
  cases h <;> rfl

/-- Settles O10: an access of cases (a) to (e) is recorded as a host fault, and HOST steps, resets and the effect of
every command keep a mark that is set. -/
theorem hostFaultSetsMarkAndLeavesBlock : Obligations.HostFaultSetsMarkAndLeavesBlock := by
  refine ⟨fun s a ts hs h => step_hostFault hs h, fun s t h hs => ?_⟩
  exact step_keeps (P := fun u => u.faultMark = true) (fun _ _ hu => hu) (fun _ hu => hu)
    (fun a _ => hostAccess_keeps_faultMark a) (fun _ hu => hu) (fun he hu => (effect_faultMark he).trans hu) hs h

/-! ### The report of a completion -/

/-- A command raises, and writes beside the report only the count of free values (R91), or succeeds, with all three
result registers 0 (R92). -/
theorem effect_report {i : Instr} {s t : State} (h : Effect i s t) :
    (∃ e i0 i1 k, t = raise e i0 i1 (setDraws k s)) ∨ (t.err = 0#4 ∧ t.errInfo0 = 0#32 ∧ t.errInfo1 = 0#32) := by
  cases h with
  | failed e i0 i1 k => exact .inl ⟨e, i0, i1, k, rfl⟩
  | tag | crc | chunk | output => exact .inr ⟨rfl, rfl, rfl⟩

/-- A completion, of an illegal word or of a command, raises or succeeds (R52, R56, R91, R92). -/
theorem engine_step_report {s t : State} (hn : EngineIsNext s) (h : step s = .next t) :
    (∃ e i0 i1 k, t = clearBusy (raise e i0 i1 (setDraws k (setSchedule s.schedule.tail s)))) ∨
      (t.err = 0#4 ∧ t.errInfo0 = 0#32 ∧ t.errInfo1 = 0#32) := by
  rcases engine_step_cases hn h with rfl | ⟨i, u, -, he, rfl⟩
  · exact .inl ⟨.illegalCmd, s.cmdl, 0#32, s.draws, rfl⟩
  · rcases effect_report he with ⟨e, i0, i1, k, rfl⟩ | hok
    · exact .inl ⟨e, i0, i1, k, rfl⟩
    · exact .inr hok

/-- Settles O42: a completion with ERR other than 0 is a raise, which writes the report alone. -/
theorem failedCommandChangesOnlyResult : Obligations.FailedCommandChangesOnlyResult := by
  intro s t hn h herr
  rcases engine_step_report hn h with ⟨e, i0, i1, k, rfl⟩ | ⟨hzero, -⟩
  · rfl
  · exact absurd hzero herr

/-- Settles O43: a completion with ERR = 0 is no raise, for no error kind has code 0. -/
theorem successClearsErrorInfo : Obligations.SuccessClearsErrorInfo := by
  intro s t hn h herr
  rcases engine_step_report hn h with ⟨e, i0, i1, k, rfl⟩ | ⟨-, hinfo⟩
  · exact absurd herr (errorCode_ne_zero e)
  · exact hinfo

/-! ### The ERR values that are never written -/

/-- Settles O46: a HOST step leaves ERR alone, a reset clears it, and a command writes 0 or the code of an error kind
other than LENGTH_OVERFLOW. -/
theorem unusedErrValuesNeverWritten : Obligations.UnusedErrValuesNeverWritten := by
  intro s t hs h
  exact step_keeps (P := ErrOk) (fun _ _ hu => hu) (fun _ hu => hu) (fun a u hu => by simpa [ErrOk] using hu)
    (fun u _ => by simp [ErrOk]) (fun he _ => effect_errOk he) hs h

end Sys2Proof.Machine
end

section
/-!
PROOFS. The family of spec/70_reset_and_hazards.md: the reset step, what only a reset clears, the read of STATUS while a
command is in flight, and the end of BUSY and of R106's interval.
-/
namespace Sys2Proof.Machine

/-! ### Reset -/

/-- A reset turn is the step that resets the block (R102). -/
theorem step_reset {s : State} {ts : List Turn} (h : s.schedule = .reset :: ts) :
    step s = .next (resetBlock (setSchedule ts s)) := by
  simp [step, takeTurn, h]

/-- Settles O20: the reset block holds the reset values, TAGQ of TAG 0 is R17's value, and CRC_VALUE is the xor of
two words of ones. -/
theorem resetStepSetsResetValues : Obligations.ResetStepSetsResetValues := by
  intro s ts hs
  exact ⟨_, step_reset hs, rfl, fun _ => rfl, rfl, rfl, tagqBitsFollowTag.2, BitVec.xor_self⟩

/-! ### CHUNK_VALID -/

/-- No command clears CHUNK_VALID: a chunk record sets it, and no other effect writes it (R13). -/
theorem effect_keeps_chunkValid {i : Instr} {s t : State} (h : Effect i s t) (hv : s.chunkValid = true) :
    t.chunkValid = true := by
  cases h with
  | failed | tag | crc | output => exact hv
  | chunk => rfl

/-- Settles O49: of the ways to step that are no reset, only a command's effect writes CHUNK_VALID, and it sets it. -/
theorem onlyResetClearsChunkValid : Obligations.OnlyResetClearsChunkValid := by
  intro s t h hv hr
  cases step_next_cases h with
  | idle => exact hv
  | host a ts => simpa using hv
  | reset ts hs => simp [hs] at hr
  | illegal => exact hv
  | command i u _ _ he => exact (effect_keeps_chunkValid (exec_effect he) hv :)

/-! ### Reads of STATUS -/

/-- A read of STATUS breaks no rule of the port, whether a command is in flight or not (R106). -/
theorem not_breaksProtocol_statusRead (s : State) {a : Access} (h : IsStatusRead a) : ¬ BreaksProtocol s a := by
  obtain ⟨hspace, hoff, hsize, hwrite⟩ := h
  simp [BreaksProtocol, hspace, hoff, hsize, hwrite]

/-- Settles O13: the read is taken and answers STATUS, in which BUSY is 1. -/
theorem busyStatusReadShowsPreviousResult : Obligations.BusyStatusReadShowsPreviousResult := by
  intro s d ts hb hs
  obtain ⟨t, hstep, hresp, hrest⟩ :=
    step_takenRead hs (not_breaksProtocol_statusRead s ⟨rfl, rfl, rfl, rfl⟩) rfl
  have hdata : (readData s ⟨.reg, 0x04#32, false, .word, d⟩).1 = statusWord s :=
    congrArg Prod.fst (readData_reg s .status false .word d)
  refine ⟨t, _, hstep, hresp, ?_, hrest⟩
  rw [hdata, statusWord_eq_fields, hb]
  rfl

/-! ### The interval of R106 -/

@[simp] theorem storeData_earlyMark (s : State) (a : Access) : (storeData s a).earlyMark = s.earlyMark := by
  rcases storeData_cases s a with h | h | h | h | ⟨-, h⟩ <;> simp [h]

/-- An access the block takes keeps the early mark, and sets it inside the interval unless it reads STATUS
(log entry 16). -/
theorem hostAccess_earlyMark {s : State} {a : Access} (h : ¬ BreaksProtocol s a) :
    (hostAccess a s).earlyMark = (s.earlyMark || (s.unread && !isStatusRead a)) := by
  cases hw : a.write with
  | false => rw [hostAccess_read h hw]; rfl
  | true => rw [hostAccess_write h hw]; simp [hostWrite]

/-- A read of STATUS while BUSY = 0 closes the interval (R106). -/
theorem hostAccess_statusRead_unread {s : State} {a : Access} (hb : s.busy = false) (h : IsStatusRead a) :
    (hostAccess a s).unread = false := by
  have ⟨_, _, _, hw⟩ := h
  rw [hostAccess_read (not_breaksProtocol_statusRead s h) hw]
  simp [hostRead, hb, (isStatusRead_iff a).2 h]

/-- Settles O18: the early mark after a taken access, one that reads STATUS or not. -/
theorem earlyAccessIsMarked : Obligations.EarlyAccessIsMarked := by
  constructor
  · intro s a ts hs hopen htaken hother
    refine ⟨_, step_host hs, ?_⟩
    rw [hostAccess_earlyMark ((breaksProtocol_setSchedule ts s a).not.2 htaken)]
    rw [← isStatusRead_iff] at hother
    simp [hopen, hother]
  · intro s a ts hs hb hread
    refine ⟨_, step_host hs, hostAccess_statusRead_unread hb hread, ?_⟩
    rw [hostAccess_earlyMark (not_breaksProtocol_statusRead _ hread)]
    simp [(isStatusRead_iff a).2 hread]

/-! ### The end of BUSY -/

/-- What a write stores never clears BUSY: a write to CMD sets it (R55). -/
theorem storeData_keeps_busy (a : Access) {s : State} (hb : s.busy = true) : (storeData s a).busy = true := by
  rcases storeData_cases s a with h | h | h | h | ⟨-, h⟩ <;> simp [h, hb]

/-- A HOST step does not end a command in flight (R106). -/
theorem hostAccess_keeps_busy (a : Access) {s : State} (hb : s.busy = true) : (hostAccess a s).busy = true := by
  rcases hostAccess_cases a s with ⟨-, h⟩ | ⟨-, -, h⟩ | ⟨-, -, h⟩ <;> rw [h]
  · exact hb
  · exact storeData_keeps_busy a hb
  · exact hb

@[simp] theorem hostAccess_schedule (a : Access) (s : State) : (hostAccess a s).schedule = s.schedule := by
  rcases hostAccess_cases a s with ⟨-, h⟩ | ⟨-, -, h⟩ | ⟨-, -, h⟩ <;> rw [h]
  · rfl
  · simp [hostWrite]
  · rfl

/-- Some run of at most `n` steps from `s`, none of which stops, ends with BUSY = 0. -/
def BusyEndsWithin (n : Nat) (s : State) : Prop :=
  ∃ (k : Nat) (t : State), k ≤ n ∧ Host.Core.run Sys2Proof.core k s = .next t ∧ t.busy = false

theorem busyEndsWithin_zero {s : State} (hb : s.busy = false) (n : Nat) : BusyEndsWithin n s :=
  ⟨0, s, Nat.zero_le n, rfl, hb⟩

theorem busyEndsWithin_succ {n : Nat} {s t : State} (h : step s = .next t) (ht : BusyEndsWithin n t) :
    BusyEndsWithin (n + 1) s := by
  obtain ⟨k, u, hk, hrun, hb⟩ := ht
  exact ⟨k + 1, u, Nat.succ_le_succ hk, (run_succ Sys2Proof.core k h).trans hrun, hb⟩

/-- The ENGINE's step ends BUSY at once (R56). -/
theorem busyEndsWithin_of_engineIsNext {s : State} (hn : EngineIsNext s) (n : Nat) : BusyEndsWithin (n + 1) s := by
  obtain ⟨t, hstep, hb⟩ := everyCompletionEnds s hn
  exact busyEndsWithin_succ hstep (busyEndsWithin_zero hb n)

/-- Settles O8, by induction on the turns to come: a HOST turn leaves the command in flight and one turn fewer, the
ENGINE's turn or a reset ends it, and with no turn left the ENGINE has the step. -/
theorem busyEndsWithinTheSchedule : Obligations.BusyEndsWithinTheSchedule := by
  intro s hb
  show BusyEndsWithin (s.schedule.length + 1) s
  induction hs : s.schedule generalizing s with
  | nil => exact busyEndsWithin_of_engineIsNext ⟨hb, .inl hs⟩ _
  | cons u ts ih =>
    cases u with
    | host a =>
      exact busyEndsWithin_succ (step_host hs)
        (ih (hostAccess a (setSchedule ts s)) (hostAccess_keeps_busy a hb) (hostAccess_schedule _ _))
    | engine => exact busyEndsWithin_of_engineIsNext ⟨hb, .inr (by simp [hs])⟩ _
    | reset => exact busyEndsWithin_succ (step_reset hs) (busyEndsWithin_zero rfl _)

end Sys2Proof.Machine
end

section
/-!
PROOFS. The family of the block right after reset: it holds the reset column of spec/10_state.md section 1, and it meets
the block's invariant.
-/
namespace Sys2Proof.Machine

/-- Settles O21: the stored registers are fields of the reset state; TAGQ of TAG 0 is R17's value, CRC_VALUE is the xor
of two words of ones, and CONFIG is 1 exactly under STRICT. -/
theorem resetStateHoldsResetColumn : Obligations.ResetStateHoldsResetColumn := by
  have htagq : tagqOf State.reset.tag = 0x0000000E#32 := tagqBitsFollowTag.2
  have hcrc : crcValue State.reset = 0#32 := BitVec.xor_self
  have hconfig := configWord_eq_ite Config.lengthCheck
  have hibuf (a : Nat) : State.reset.ibuf.read a = none := rfl
  exact ⟨rfl, rfl, rfl, rfl, rfl, rfl, rfl, htagq, rfl, rfl, rfl, hcrc, rfl, rfl, rfl, rfl, rfl, rfl, hconfig, rfl, rfl,
    rfl, hibuf⟩

/-- `P_BUF_BYTES` is in the range of R1, whatever the implementation chose. -/
theorem config_bufBytes_inRange : WellFormed.bufBytes Config.bufBytes = true := by
  rw [bufBytes_bounds, config_bufBytes_toNat]
  omega

/-- Settles O45: the parameters are in range, ERR and TAG are 0, no chunk is held, and the buffers list no byte. -/
theorem blockInvariantHoldsAtReset : Obligations.BlockInvariantHoldsAtReset where
  params  := config_bufBytes_inRange
  err     := by simp [ErrOk, State.reset]
  tags    := resetBlock_tagsOk State.reset
  buffers := ⟨⟨rfl, rfl⟩, ⟨rfl, rfl⟩, rfl, rfl⟩
  chunk   := ⟨nofun, fun _ => ⟨rfl, rfl, rfl, rfl⟩⟩
  output  := ⟨⟨[], rfl⟩, Nat.zero_le _⟩

end Sys2Proof.Machine
end
